-- ==== Sys2Proof/Word.lean ====
section
/-! DEFINITION. The words of the block and the answer tags.
A byte is an unsigned value of 8 bits and a register value is 32 bits (spec/00_scope.md R7,
spec/10_state.md R34). -/

namespace Sys2Proof

/-- A byte of a frame, a buffer or a register field (R7). -/
abbrev Byte := BitVec 8

/-- A host register value, moved whole (R34). -/
abbrev Word := BitVec 32

/-- The number of a host register, 0x000 to 0xFFF (R34, R240). -/
abbrev RegNum := BitVec 12

/-- The tag of a slot: the variant of the stored answer, `none` for an empty slot (R31).
Tags 13 to 15 never occur and the type has none (spec/93_implementation_defined.md U16). -/
inductive Tag where
  | none | state | posdone | posobst | moveacc | refack | stopack | gripack
  | cmderr | errack | config | cmdinfo | raw
deriving DecidableEq, Repr

end Sys2Proof
end

