-- ==== Sys2Proof/Config.lean ====
section
/-! DEFINITION. The implementation parameters of spec/00_scope.md R6: the fixed sizes, and the
parameters the spec leaves OPEN as constants without a body. -/

namespace Sys2Proof.Config

/-- `RXBUF_DEPTH` (R6, R24). -/
def rxbufDepth : Nat := 260

/-- `TXQ_DEPTH` (R6, R25). -/
def txqDepth : Nat := 260

/-- `MAX_PAYLOAD` (R6): the entries of `TXP` and the longest payload of a frame. -/
def maxPayload : Nat := 254

/-- `MIN_FRAME` (R6, R152). -/
def minFrame : Nat := 6

/-- `MAX_FRAME` (R6, R93). -/
def maxFrame : Nat := 260

/-- `ERRTAB : byte -> category index` (R203): an OPEN parameter of an instance. It is total and its
lookup has no side effect; "a model must not assume any particular entry". Free value: log entry 8. -/
opaque errtab : BitVec 8 → BitVec 8

/-- The category strings of the indices other than 0 (R203): OPEN, kept by the host. Free value: log entry 8. -/
opaque errstrListed : BitVec 8 → String

end Sys2Proof.Config
end

