-- ==== Sys2Proof/Machine/Wire.lean ====
section
/-! DEFINITION. The wire format: byte order (spec/20_memory.md R60), the checksum
(spec/30_encoding.md R96), the frame (R90, spec/40_encode.md R130) and its validity (R98). -/

namespace Sys2Proof.Machine

/-- `le16(lo, hi) = lo + 256*hi` (R9): the byte that comes first on the wire is the less significant (R60). -/
def le16 (lo hi : Byte) : BitVec 16 := hi ++ lo

/-- `le32(b0, b1, b2, b3)` (R9, R60). -/
def le32 (b0 b1 b2 b3 : Byte) : Word := b3 ++ b2 ++ b1 ++ b0

/-- One inner iteration of `crc16` (R96): the logical right shift, and the reflected polynomial 0xA001
when the bit shifted out is 1. -/
def crcBit (c : BitVec 16) : BitVec 16 :=
  if c.getLsbD 0 then (c >>> 1) ^^^ 0xA001#16 else c >>> 1

/-- `k` inner iterations of `crc16`. -/
def crcShift : Nat → BitVec 16 → BitVec 16
  | 0, c => c
  | k + 1, c => crcShift k (crcBit c)

/-- One byte of `crc16` (R96): XOR into the low 8 bits, then 8 iterations. -/
def crcByte (c : BitVec 16) (b : Byte) : BitVec 16 :=
  crcShift 8 (c ^^^ b.setWidth 16)

/-- `crc16` from a given running value. -/
def crcFrom (c : BitVec 16) (s : List Byte) : BitVec 16 := s.foldl crcByte c

/-- `crc16(s)` (R96): polynomial 0x8005 reflected, initial value 0x0000, final XOR 0x0000. -/
def crc16 (s : List Byte) : BitVec 16 := crcFrom 0x0000#16 s

/-- One bit of the unreflected form (R96): shift left by one, XOR 0x8005 if the bit shifted out was 1. -/
def crcBitMsb (c : BitVec 16) : BitVec 16 :=
  if c.getLsbD 15 then (c <<< 1) ^^^ 0x8005#16 else c <<< 1

/-- `k` bits of the unreflected form. -/
def crcShiftMsb : Nat → BitVec 16 → BitVec 16
  | 0, c => c
  | k + 1, c => crcShiftMsb k (crcBitMsb c)

/-- One byte of the unreflected form (R96): XOR into bits 15:8, then 8 bits. -/
def crcByteMsb (c : BitVec 16) (b : Byte) : BitVec 16 :=
  crcShiftMsb 8 (c ^^^ (b ++ 0#8))

/-- "The same function in the unreflected wording of the document" (R96): the bits of every input byte
reversed, most significant bit first with polynomial 0x8005, the 16 bits of the result reversed. -/
def crc16Unreflected (s : List Byte) : BitVec 16 :=
  ((s.map BitVec.reverse).foldl crcByteMsb 0x0000#16).reverse

/-- The trailer of a checksum: "appended low-byte-first" (R60, R95). -/
def trailer (c : BitVec 16) : List Byte := [c.extractLsb' 0 8, c.extractLsb' 8 8]

/-- The bytes a checksum covers: `pre[15:8] pre[7:0] LEN CMD PAYLOAD`, `LEN` = 1 + payload length (R90, R91). -/
def frameBody (pre : BitVec 16) (cmd : Byte) (payload : List Byte) : List Byte :=
  pre.extractLsb' 8 8 :: pre.extractLsb' 0 8 :: BitVec.ofNat 8 (payload.length + 1) :: cmd :: payload

/-- A body followed by its checksum, low byte first (R95). -/
def withTrailer (body : List Byte) : List Byte := body ++ trailer (crc16 body)

/-- The preamble the encoder writes at the head of every frame: `05 0C` (R90, R94). -/
def preamble : BitVec 16 := 0x050C#16

/-- A candidate with any two first bytes and a correct checksum (R94: the scanner does not test them). -/
def candidateOf (pre : BitVec 16) (cmd : Byte) (payload : List Byte) : List Byte :=
  withTrailer (frameBody pre cmd payload)

/-- `frame(cmd, payload)` (R130). The spec defines it for payloads of at most 254 bytes. -/
def frame (cmd : Byte) (payload : List Byte) : List Byte :=
  candidateOf preamble cmd payload

/-- The length byte of a buffer or candidate: the byte at offset 2, as a number (R153). -/
def lenByte (buf : List Byte) : Nat := (buf.getD 2 0#8).toNat

/-- `total = 5 + LEN`, without wrap-around (R93, R250 (a)). -/
def total (buf : List Byte) : Nat := 5 + lenByte buf

/-- The checksum a candidate of `t` bytes carries in its last two bytes (R103 (e)). -/
def receivedCrc (cand : List Byte) (t : Nat) : BitVec 16 :=
  le16 (cand.getD (t - 2) 0#8) (cand.getD (t - 1) 0#8)

/-- `frame_valid(cand)` (R98): "verify CRC16 over all but the last two bytes against the trailing two
bytes", and nothing else. -/
def frameValid (cand : List Byte) : Bool :=
  receivedCrc cand (total cand) == crc16 (cand.take (total cand - 2))

/-- `cmd = cand[3]` (R103 (c)). -/
def cmdOf (cand : List Byte) : Byte := cand.getD 3 0#8

/-- `payload = cand[4 .. total-3]` (R103 (d), R157). -/
def payloadOf (cand : List Byte) : List Byte := (cand.take (total cand - 2)).drop 4

end Sys2Proof.Machine
end

