-- ==== Sys2Proof/Machine/Variant.lean ====
section
/-! DEFINITION. The answer decoder as a pure function: the dispatch table and `decode`
(spec/42_decode.md R180, R181, R194), and the numbering of the tags (spec/10_state.md R31). -/

namespace Sys2Proof.Machine

/-- The 4-bit code of a tag (R31). -/
def tagCode : Tag → BitVec 4
  | .none => 0 | .state => 1 | .posdone => 2 | .posobst => 3 | .moveacc => 4 | .refack => 5
  | .stopack => 6 | .gripack => 7 | .cmderr => 8 | .errack => 9 | .config => 10 | .cmdinfo => 11
  | .raw => 12

/-- The tags by their codes, in the order of R31. -/
def allTags : List Tag :=
  [.none, .state, .posdone, .posobst, .moveacc, .refack, .stopack, .gripack, .cmderr, .errack,
   .config, .cmdinfo, .raw]

/-- The tag of a 4-bit code; 13 to 15 are no tag (R31, R104 (h)). -/
def tagOfCode (c : BitVec 4) : Option Tag := allTags[c.toNat]?

/-- The dispatch table (R181): command code, tag, and the exact payload length the variant requires
(`none`: any). -/
def dispatchTable : List (Byte × Tag × Option Nat) :=
  [(0x95#8, .state, some 14),
   (0x94#8, .posdone, some 4),
   (0x93#8, .posobst, some 4),
   (0xB0#8, .moveacc, some 4),
   (0x92#8, .refack, none),
   (0x91#8, .stopack, none),
   (0xB7#8, .gripack, none),
   (0x88#8, .cmderr, some 1),
   (0x8B#8, .errack, none),
   (0x80#8, .config, none),
   (0x8A#8, .cmdinfo, none)]

/-- `dispatch(cmd)` (R181): every command code outside the table is `RAW` with any length. -/
def dispatch (cmd : Byte) : Tag × Option Nat := (dispatchTable.lookup cmd).getD (.raw, none)

/-- Does a payload of `n` bytes meet the requirement (R180)? -/
def needMet (need : Option Nat) (n : Nat) : Bool :=
  match need with
  | none => true
  | some k => n == k

/-- `decode(cmd, payload)` (R180): the tag, or `none` for `DecodeError` (R194). -/
def decodeAnswer (cmd : Byte) (payload : List Byte) : Option Tag :=
  if needMet (dispatch cmd).2 payload.length then some (dispatch cmd).1 else none

end Sys2Proof.Machine
end

