-- ==== Sys2Proof/Syntax.lean ====
section
/-! DEFINITION. The operations of the block, one constructor per row of spec/opcode_table.json
(spec/30_encoding.md R100, R107). -/

namespace Sys2Proof

/-- The 30 operations. A decode operation carries the whole candidate it stands for: the two preamble
bytes the scanner does not test (`pre`, PRE0 in bits 15:8, R94), the payload, and for `DEC.RAW` the
command byte. A `CMDR` operation carries the bits 31:8 of the written value, which are ignored (R101). -/
inductive Instr where
  /-- DEC.STATE (R182), command 0x95. -/
  | decState (pre : BitVec 16) (payload : List Byte)
  /-- DEC.POSDONE (R183), command 0x94. -/
  | decPosdone (pre : BitVec 16) (payload : List Byte)
  /-- DEC.POSOBST (R184), command 0x93. -/
  | decPosobst (pre : BitVec 16) (payload : List Byte)
  /-- DEC.MOVEACC (R185), command 0xB0. -/
  | decMoveacc (pre : BitVec 16) (payload : List Byte)
  /-- DEC.REFACK (R186), command 0x92. -/
  | decRefack (pre : BitVec 16) (payload : List Byte)
  /-- DEC.STOPACK (R187), command 0x91. -/
  | decStopack (pre : BitVec 16) (payload : List Byte)
  /-- DEC.GRIPACK (R188), command 0xB7. -/
  | decGripack (pre : BitVec 16) (payload : List Byte)
  /-- DEC.CMDERR (R189), command 0x88. -/
  | decCmderr (pre : BitVec 16) (payload : List Byte)
  /-- DEC.ERRACK (R190), command 0x8B. -/
  | decErrack (pre : BitVec 16) (payload : List Byte)
  /-- DEC.CONFIG (R191), command 0x80. -/
  | decConfig (pre : BitVec 16) (payload : List Byte)
  /-- DEC.CMDINFO (R192), command 0x8A. -/
  | decCmdinfo (pre : BitVec 16) (payload : List Byte)
  /-- DEC.RAW (R193), every other command byte. -/
  | decRaw (pre : BitVec 16) (cmd : Byte) (payload : List Byte)
  /-- FRAME (R130): the frame that ENCODE produces. -/
  | frame (cmd : Byte) (payload : List Byte)
  /-- ENCODE (R131). -/
  | encode (ignored : BitVec 24)
  /-- RX_FLUSH (R165). -/
  | rxFlush (ignored : BitVec 24)
  /-- CLOSE (R243). -/
  | close (ignored : BitVec 24)
  /-- SOFT_RESET (R245). -/
  | softReset (ignored : BitVec 24)
  /-- CTRL_WRITE (R247). -/
  | ctrlWrite (v : Word)
  /-- EVT_CLEAR (R246). -/
  | evtClear (v : Word)
  /-- IEN_WRITE (R247). -/
  | ienWrite (v : Word)
  /-- SNAP_LATCH (R224). -/
  | snapLatch (v : Word)
  /-- REG_WRITE (R240). -/
  | regWrite (n : RegNum) (v : Word)
  /-- REG_READ (R240). -/
  | regRead (n : RegNum)
  /-- RX_PUSH (R150). -/
  | rxPush (b : Byte)
  /-- ENGINE_STEP, outcome DROP1 (R161). -/
  | engineStepDrop1
  /-- ENGINE_STEP, outcome FRAME (R162). -/
  | engineStepFrame
  /-- PUBLISH (R220, R221). -/
  | publish (cmd : Byte) (tag : Tag) (payload : List Byte)
  /-- TX_POP (R136). -/
  | txPop
  /-- RX_CLOSE (R244). -/
  | rxClose
  /-- HARD_RESET (R290). -/
  | hardReset
deriving DecidableEq, Repr

end Sys2Proof
end

