-- ==== Sys2Proof/WellFormed.lean ====
section
/-! DEFINITION. Which terms of `Instr` stand for an operation as spec/30_encoding.md encodes it. -/

namespace Sys2Proof

/-- A payload a frame can carry: 0 to 254 bytes (R90, R99). -/
def payloadFits (payload : List Byte) : Bool := payload.length ≤ Config.maxPayload

/-- Does a `CMDR` value name one of the four operations (R101)? -/
def cmdrNamed (v : Word) : Bool :=
  let op := v.extractLsb' 0 8
  op == 0x01#8 || op == 0x02#8 || op == 0x03#8 || op == 0x04#8

/-- A register write that has a row of its own in the opcode table: the special cases of the generic
access (R107 (e)). -/
def specialWrite (n : RegNum) (v : Word) : Bool :=
  n == 0x000#12 || n == 0x003#12 || n == 0x004#12 || n == 0x010#12 || (n == 0x001#12 && cmdrNamed v)

/-- Well-formed: the payload fits a frame; `DEC.RAW` has a command byte of no other row (R193); `PUBLISH`
has the tag `decode` returns (R107 (f), R220); the generic `REG_WRITE` is none of its special cases. -/
def Instr.wellFormed : Instr → Bool
  | .decState _ p => payloadFits p
  | .decPosdone _ p => payloadFits p
  | .decPosobst _ p => payloadFits p
  | .decMoveacc _ p => payloadFits p
  | .decRefack _ p => payloadFits p
  | .decStopack _ p => payloadFits p
  | .decGripack _ p => payloadFits p
  | .decCmderr _ p => payloadFits p
  | .decErrack _ p => payloadFits p
  | .decConfig _ p => payloadFits p
  | .decCmdinfo _ p => payloadFits p
  | .decRaw _ cmd p => payloadFits p && (Machine.dispatch cmd).1 == .raw
  | .frame _ p => payloadFits p
  | .encode _ => true
  | .rxFlush _ => true
  | .close _ => true
  | .softReset _ => true
  | .ctrlWrite _ => true
  | .evtClear _ => true
  | .ienWrite _ => true
  | .snapLatch _ => true
  | .regWrite n v => !specialWrite n v
  | .regRead _ => true
  | .rxPush _ => true
  | .engineStepDrop1 => true
  | .engineStepFrame => true
  | .publish cmd tag p => payloadFits p && Machine.decodeAnswer cmd p == some tag
  | .txPop => true
  | .rxClose => true
  | .hardReset => true

end Sys2Proof
end

