-- ==== Sys2Proof/Decode.lean ====
section
/-! DEFINITION. The encodings of spec/30_encoding.md: what stands at the block's interfaces, which
operation it selects (`decode`), and how a well-formed operation is written (`encode`).
The block has no instruction memory: an operation is selected by a frame, by a register access or by an
interface event (R107), so the encoded form is one of those (log entry 4). -/

namespace Sys2Proof

/-- What an agent or the environment presents to the block for one step (spec/10_state.md R20, R40). -/
inductive Stimulus where
  /-- HOST: `REG_WRITE(n, v)`. -/
  | regWrite (n : RegNum) (v : Word)
  /-- HOST: `REG_READ(n)`. -/
  | regRead (n : RegNum)
  /-- LINE_RX: the line offers a byte. -/
  | rxByte (b : Byte)
  /-- LINE_RX: the line reports closed or failed. -/
  | rxClosed
  /-- ENGINE: its step with outcome DROP1. -/
  | engineDrop1
  /-- ENGINE: its step with outcome FRAME. -/
  | engineFrame
  /-- LINE_TX: the line takes a byte. -/
  | txTake
  /-- The environment's reset input. -/
  | reset
deriving DecidableEq, Repr

/-- The encoded form of an operation, by the formats of R107: a candidate (FRAME_RX), a frame produced
(FRAME_TX), something at an interface (CMDR, REGW, REG, EVENT), or the internal PUBLISH with its operands. -/
inductive Code where
  | frameRx (cand : List Byte)
  | frameTx (sent : List Byte)
  | port (x : Stimulus)
  | publish (cmd : Byte) (tag : BitVec 4) (payload : List Byte)
deriving DecidableEq, Repr

/-- Why a code stands for no operation. -/
inductive Reject where
  /-- Fewer than 6 bytes (R152). -/
  | short
  /-- The length byte is 0, which is not a frame (R91, R155). -/
  | lengthZero
  /-- The bytes are not the `5 + LEN` bytes of one candidate (R93). -/
  | lengthMismatch
  /-- The trailer is not the checksum (R98). -/
  | badChecksum
  /-- A produced frame does not begin `05 0C` (R94). -/
  | badPreamble
  /-- The tag is not the one `decode` returns for the command and payload (R107 (f), R220). -/
  | tagNotDecoded
deriving DecidableEq, Repr

/-- What keeps a byte sequence from being exactly one valid candidate (R98, R104), if anything. -/
def frameFault (cand : List Byte) : Option Reject :=
  if cand.length < Config.minFrame then some .short
  else if Machine.lenByte cand = 0 then some .lengthZero
  else if cand.length ≠ Machine.total cand then some .lengthMismatch
  else if Machine.frameValid cand then none else some .badChecksum

/-- The two untested bytes of a candidate (R94). -/
def preOf (cand : List Byte) : BitVec 16 := cand.getD 0 0#8 ++ cand.getD 1 0#8

/-- The FRAME_RX row that the command byte selects (R107 (a), R181). -/
def decodeCandidate (cand : List Byte) : Instr :=
  let pre := preOf cand
  let payload := Machine.payloadOf cand
  match (Machine.dispatch (Machine.cmdOf cand)).1 with
  | .state => .decState pre payload
  | .posdone => .decPosdone pre payload
  | .posobst => .decPosobst pre payload
  | .moveacc => .decMoveacc pre payload
  | .refack => .decRefack pre payload
  | .stopack => .decStopack pre payload
  | .gripack => .decGripack pre payload
  | .cmderr => .decCmderr pre payload
  | .errack => .decErrack pre payload
  | .config => .decConfig pre payload
  | .cmdinfo => .decCmdinfo pre payload
  | .raw => .decRaw pre (Machine.cmdOf cand) payload
  | .none => .decRaw pre (Machine.cmdOf cand) payload

/-- The operation a register write selects: a CMDR operation by bits 7:0 of the value (R101), a REGW row
by the register number, else the generic REG_WRITE (R107 (c) to (e)). -/
def decodeWrite (n : RegNum) (v : Word) : Instr :=
  let ignored := v.extractLsb' 8 24
  if n = 0x001#12 then
    if v.extractLsb' 0 8 = 0x01#8 then .encode ignored
    else if v.extractLsb' 0 8 = 0x02#8 then .rxFlush ignored
    else if v.extractLsb' 0 8 = 0x03#8 then .close ignored
    else if v.extractLsb' 0 8 = 0x04#8 then .softReset ignored
    else .regWrite n v
  else if n = 0x000#12 then .ctrlWrite v
  else if n = 0x003#12 then .evtClear v
  else if n = 0x004#12 then .ienWrite v
  else if n = 0x010#12 then .snapLatch v
  else .regWrite n v

/-- The operation a stimulus selects. Every stimulus selects one. -/
def decodeStimulus : Stimulus → Instr
  | .regWrite n v => decodeWrite n v
  | .regRead n => .regRead n
  | .rxByte b => .rxPush b
  | .rxClosed => .rxClose
  | .engineDrop1 => .engineStepDrop1
  | .engineFrame => .engineStepFrame
  | .txTake => .txPop
  | .reset => .hardReset

/-- The decoder: total, and it rejects by name. -/
def decode : Code → Except Reject Instr
  | .frameRx cand =>
    match frameFault cand with
    | some r => .error r
    | none => .ok (decodeCandidate cand)
  | .frameTx sent =>
    match frameFault sent with
    | some r => .error r
    | none =>
      if preOf sent = Machine.preamble then .ok (.frame (Machine.cmdOf sent) (Machine.payloadOf sent))
      else .error .badPreamble
  | .port x => .ok (decodeStimulus x)
  | .publish cmd tag payload =>
    if payload.length ≤ Config.maxPayload then
      match Machine.decodeAnswer cmd payload with
      | some t => if Machine.tagCode t = tag then .ok (.publish cmd t payload) else .error .tagNotDecoded
      | none => .error .tagNotDecoded
    else .error .lengthMismatch

/-- The value written to `CMDR`: the operation in bits 7:0, the ignored bits above (R101). -/
def cmdrValue (ignored : BitVec 24) (op : Byte) : Word := ignored ++ op

/-- A write to `CMDR` (R100, R101). -/
def cmdrCode (ignored : BitVec 24) (op : Byte) : Code := .port (.regWrite 0x001#12 (cmdrValue ignored op))

/-- The encoder: how an operation is written (R90, R100, R101, R181). -/
def encode : Instr → Code
  | .decState pre p => .frameRx (Machine.candidateOf pre 0x95#8 p)
  | .decPosdone pre p => .frameRx (Machine.candidateOf pre 0x94#8 p)
  | .decPosobst pre p => .frameRx (Machine.candidateOf pre 0x93#8 p)
  | .decMoveacc pre p => .frameRx (Machine.candidateOf pre 0xB0#8 p)
  | .decRefack pre p => .frameRx (Machine.candidateOf pre 0x92#8 p)
  | .decStopack pre p => .frameRx (Machine.candidateOf pre 0x91#8 p)
  | .decGripack pre p => .frameRx (Machine.candidateOf pre 0xB7#8 p)
  | .decCmderr pre p => .frameRx (Machine.candidateOf pre 0x88#8 p)
  | .decErrack pre p => .frameRx (Machine.candidateOf pre 0x8B#8 p)
  | .decConfig pre p => .frameRx (Machine.candidateOf pre 0x80#8 p)
  | .decCmdinfo pre p => .frameRx (Machine.candidateOf pre 0x8A#8 p)
  | .decRaw pre cmd p => .frameRx (Machine.candidateOf pre cmd p)
  | .frame cmd p => .frameTx (Machine.frame cmd p)
  | .encode ign => cmdrCode ign 0x01#8
  | .rxFlush ign => cmdrCode ign 0x02#8
  | .close ign => cmdrCode ign 0x03#8
  | .softReset ign => cmdrCode ign 0x04#8
  | .ctrlWrite v => .port (.regWrite 0x000#12 v)
  | .evtClear v => .port (.regWrite 0x003#12 v)
  | .ienWrite v => .port (.regWrite 0x004#12 v)
  | .snapLatch v => .port (.regWrite 0x010#12 v)
  | .regWrite n v => .port (.regWrite n v)
  | .regRead n => .port (.regRead n)
  | .rxPush b => .port (.rxByte b)
  | .engineStepDrop1 => .port .engineDrop1
  | .engineStepFrame => .port .engineFrame
  | .publish cmd tag p => .publish cmd (Machine.tagCode tag) p
  | .txPop => .port .txTake
  | .rxClose => .port .rxClosed
  | .hardReset => .port .reset

/-! The machine-readable table. -/

/-- The formats of the table's rows (R107 (a) to (f)). -/
inductive Format where
  | frameRx | frameTx | cmdr | regw | reg | event
deriving DecidableEq, Repr

/-- What tells rows without a pattern of their own apart: for the generic access the direction, for an EVENT the
interface event or internal condition of its `selected_by` (R107 (e), (f)). -/
inductive Selector where
  | regWrite | regRead | rxPush | engineDrop1 | engineFrame | publish | txPop | rxClose | hardReset
deriving DecidableEq, Repr

/-- A row of the table: its format, `match` and `mask`, and for a row whose mask is 0 what selects it instead
(R107). -/
structure Row where
  format : Format
  pattern : Word
  mask : Word
  selector : Option Selector
deriving DecidableEq, Repr

/-- The row of each operation, as spec/opcode_table.json gives it. -/
def rowOf : Instr → Row
  | .decState _ _ => ⟨.frameRx, 0x00000095, 0x000000FF, none⟩
  | .decPosdone _ _ => ⟨.frameRx, 0x00000094, 0x000000FF, none⟩
  | .decPosobst _ _ => ⟨.frameRx, 0x00000093, 0x000000FF, none⟩
  | .decMoveacc _ _ => ⟨.frameRx, 0x000000B0, 0x000000FF, none⟩
  | .decRefack _ _ => ⟨.frameRx, 0x00000092, 0x000000FF, none⟩
  | .decStopack _ _ => ⟨.frameRx, 0x00000091, 0x000000FF, none⟩
  | .decGripack _ _ => ⟨.frameRx, 0x000000B7, 0x000000FF, none⟩
  | .decCmderr _ _ => ⟨.frameRx, 0x00000088, 0x000000FF, none⟩
  | .decErrack _ _ => ⟨.frameRx, 0x0000008B, 0x000000FF, none⟩
  | .decConfig _ _ => ⟨.frameRx, 0x00000080, 0x000000FF, none⟩
  | .decCmdinfo _ _ => ⟨.frameRx, 0x0000008A, 0x000000FF, none⟩
  | .decRaw _ _ _ => ⟨.frameRx, 0x00000000, 0x00000000, none⟩
  | .frame _ _ => ⟨.frameTx, 0x050C0000, 0xFFFF0000, none⟩
  | .encode _ => ⟨.cmdr, 0x00000001, 0x000000FF, none⟩
  | .rxFlush _ => ⟨.cmdr, 0x00000002, 0x000000FF, none⟩
  | .close _ => ⟨.cmdr, 0x00000003, 0x000000FF, none⟩
  | .softReset _ => ⟨.cmdr, 0x00000004, 0x000000FF, none⟩
  | .ctrlWrite _ => ⟨.regw, 0x00000000, 0x00000FFF, none⟩
  | .evtClear _ => ⟨.regw, 0x00000003, 0x00000FFF, none⟩
  | .ienWrite _ => ⟨.regw, 0x00000004, 0x00000FFF, none⟩
  | .snapLatch _ => ⟨.regw, 0x00000010, 0x00000FFF, none⟩
  | .regWrite _ _ => ⟨.reg, 0x00000000, 0x00000000, some .regWrite⟩
  | .regRead _ => ⟨.reg, 0x00000000, 0x00000000, some .regRead⟩
  | .rxPush _ => ⟨.event, 0x00000000, 0x00000000, some .rxPush⟩
  | .engineStepDrop1 => ⟨.event, 0x00000000, 0x00000000, some .engineDrop1⟩
  | .engineStepFrame => ⟨.event, 0x00000000, 0x00000000, some .engineFrame⟩
  | .publish _ _ _ => ⟨.event, 0x00000000, 0x00000000, some .publish⟩
  | .txPop => ⟨.event, 0x00000000, 0x00000000, some .txPop⟩
  | .rxClose => ⟨.event, 0x00000000, 0x00000000, some .rxClose⟩
  | .hardReset => ⟨.event, 0x00000000, 0x00000000, some .hardReset⟩

/-- The header word of a candidate or frame: bytes 0 to 3, byte 0 the most significant (R107 (a)). -/
def headerWord (cand : List Byte) : Word :=
  cand.getD 0 0#8 ++ cand.getD 1 0#8 ++ cand.getD 2 0#8 ++ cand.getD 3 0#8

/-- The register write that stands at the host port, if one does. -/
def writeOf : Code → Option (RegNum × Word)
  | .port (.regWrite n v) => some (n, v)
  | .port (.regRead _) => none
  | .port (.rxByte _) => none
  | .port .rxClosed => none
  | .port .engineDrop1 => none
  | .port .engineFrame => none
  | .port .txTake => none
  | .port .reset => none
  | .frameRx _ => none
  | .frameTx _ => none
  | .publish _ _ _ => none

/-- The register number of a host access, if one stands at the host port. -/
def regNumOf : Code → Option RegNum
  | .port (.regWrite n _) => some n
  | .port (.regRead n) => some n
  | .port (.rxByte _) => none
  | .port .rxClosed => none
  | .port .engineDrop1 => none
  | .port .engineFrame => none
  | .port .txTake => none
  | .port .reset => none
  | .frameRx _ => none
  | .frameTx _ => none
  | .publish _ _ _ => none

/-- What a code offers a row that is not selected by its pattern (R107 (e), (f)): the direction of a register
access, the event, or the internal PUBLISH, which there is only with the tag `decode` returns. -/
def selectorOf : Code → Option Selector
  | .port (.regWrite _ _) => some .regWrite
  | .port (.regRead _) => some .regRead
  | .port (.rxByte _) => some .rxPush
  | .port .rxClosed => some .rxClose
  | .port .engineDrop1 => some .engineDrop1
  | .port .engineFrame => some .engineFrame
  | .port .txTake => some .txPop
  | .port .reset => some .hardReset
  | .frameRx _ => none
  | .frameTx _ => none
  | .publish cmd tag payload =>
    if (Machine.decodeAnswer cmd payload).map Machine.tagCode = some tag then some .publish else none

/-- The header word of a received candidate for which `frame_valid` holds (R98, R107 (a)). -/
def rxHeader : Code → Option Word
  | .frameRx cand => if frameFault cand = none then some (headerWord cand) else none
  | .frameTx _ => none
  | .port _ => none
  | .publish _ _ _ => none

/-- The header word of a produced frame (R107 (b)). -/
def txHeader : Code → Option Word
  | .frameTx sent => if frameFault sent = none then some (headerWord sent) else none
  | .frameRx _ => none
  | .port _ => none
  | .publish _ _ _ => none

/-- The word that a row of a format looks at in a code (R107 (a) to (f)); `none` where the code is not of
that format. An event has no word; its `match` and `mask` are 0. -/
def rowWord (f : Format) (c : Code) : Option Word :=
  match f with
  | .frameRx => rxHeader c
  | .frameTx => txHeader c
  | .cmdr => (writeOf c).bind (fun r => if r.1 = 0x001#12 then some r.2 else none)
  | .regw => (writeOf c).map (fun r => r.1.setWidth 32)
  | .reg => (regNumOf c).map (fun n => n.setWidth 32)
  | .event => if (regNumOf c).isSome then none else (selectorOf c).map (fun _ => 0#32)

/-- `(word AND mask) = match`, and the selector where the row has one (R107). -/
def Row.selects (r : Row) (c : Code) : Bool :=
  match rowWord r.format c with
  | some w => w &&& r.mask == r.pattern && (r.selector == none || r.selector == selectorOf c)
  | none => false

/-- The row DEC.RAW, the default of its format (R107 (a)). -/
def defaultRow : Row := rowOf (.decRaw 0 0 [])

/-- The other FRAME_RX rows (R107 (a), R181). -/
def listedRxRows : List Row :=
  [rowOf (.decState 0 []), rowOf (.decPosdone 0 []), rowOf (.decPosobst 0 []), rowOf (.decMoveacc 0 []),
   rowOf (.decRefack 0 []), rowOf (.decStopack 0 []), rowOf (.decGripack 0 []), rowOf (.decCmderr 0 []),
   rowOf (.decErrack 0 []), rowOf (.decConfig 0 []), rowOf (.decCmdinfo 0 [])]

/-- A row applies to a code (R107): it is selected, and DEC.RAW "applies only when no other FRAME_RX row
matches". -/
def Row.applies (r : Row) (c : Code) : Bool :=
  r.selects c && (r != defaultRow || !listedRxRows.any (fun other => other.selects c))

/-- The candidate that a header word stands for when its operand bytes are zeros: `LEN - 1` zero payload
bytes and the checksum. A header whose LEN byte the table gives no bits (0) is completed to the length
its row requires, or to an empty payload (log entry 6). -/
def completeHeader (pre : BitVec 16) (len cmd : Byte) : List Byte :=
  let n := if len = 0#8 then (Machine.dispatch cmd).2.getD 0 else len.toNat - 1
  Machine.candidateOf pre cmd (List.replicate n 0#8)

/-- The code of a table word. The words of the table's formats overlap (0x00000003 is the row of CLOSE and
the row of EVT_CLEAR), and a word does not name its format; the order here is the model's (log entry 6). -/
def tableCode (nbits w : Nat) : Code :=
  let word := BitVec.ofNat 32 w
  let pre := word.extractLsb' 16 16
  let len := word.extractLsb' 8 8
  let cmd := word.extractLsb' 0 8
  let isReg := w == 0x000 || w == 0x003 || w == 0x004 || w == 0x010
  let host := Code.port (.regWrite (BitVec.ofNat 12 w) 0#32)
  if 16 < nbits && pre == Machine.preamble then
    .frameTx (Machine.frame cmd (List.replicate (len.toNat - 1) 0#8))
  else if 8 < nbits && nbits ≤ 16 && isReg then host
  else if (Machine.dispatch cmd).1 != .raw then .frameRx (completeHeader pre len cmd)
  else if cmdrNamed word then .port (.regWrite 0x001#12 word)
  else if isReg then host
  else .frameRx (completeHeader pre len cmd)

/-- The operation the decoder reads from a word of spec/opcode_table.json (log entry 6). -/
def decodeTableWord (nbits w : Nat) : Option Instr :=
  match decode (tableCode nbits w) with
  | .ok i => some i
  | .error _ => none

end Sys2Proof
end

