-- ==== Sys2Proof/Machine/State.lean ====
section
/-! DEFINITION. The architectural state (spec/10_state.md R21), its reset value (R44), and the reasons a
step can stop. -/

namespace Sys2Proof.Machine

/-- A byte-indexed space (R40): address and byte pairs, addresses strictly rising, no byte equal to what an
unlisted address reads as, which is 0x00, the reset contents of every such space (R44). -/
abbrev Memory := List Host.Cell

/-- A slot record `{seq, tag, plen, data}` (R30). -/
structure Slot where
  seq : BitVec 32
  tag : Tag
  plen : BitVec 8
  data : Memory
deriving DecidableEq, Repr

/-- The reset value of a slot (R30, R44). -/
def Slot.empty : Slot := { seq := 0#32, tag := .none, plen := 0#8, data := [] }

/-- The slot table (R30): the slots that are not empty, by command code, in the same canonical form. -/
abbrev SlotTable := List (Nat × Slot)

/-- The logging sink `LOG` (R33). -/
structure Log where
  lastPub : Byte
  lastUnsup : Byte
  lastDecerr : Byte
deriving DecidableEq, Repr

/-- The state of the block (R21), and after it three fields of the world outside the block that the model
keeps: the history of sent bytes (R27), the history of values the host read, and the pending stimuli
(log entries 1 to 3). -/
structure State where
  /-- `RXBUF`, oldest byte first (R24). -/
  rxbuf : List Byte
  /-- `TXQ`, first byte to send first (R25). -/
  txq : List Byte
  /-- `TX_CMD` (R26). -/
  txCmd : Byte
  /-- `TX_PLEN` (R26). -/
  txPlen : BitVec 16
  /-- `TXP[0..253]` (R26). -/
  txp : Memory
  /-- `RX_EN` (R28). -/
  rxEn : Bool
  /-- `CLOSED` (R28). -/
  closed : Bool
  /-- `EVT` (R29). -/
  evt : BitVec 9
  /-- `IEN` (R29). -/
  ien : BitVec 9
  /-- `SLOT[0..255]` (R30). -/
  slots : SlotTable
  /-- `SLOT_SEL` (R32). -/
  slotSel : Byte
  /-- `SNAP` (R32). -/
  snap : Slot
  /-- `LOG` (R33). -/
  log : Log
  /-- `TXWIRE`, the bytes handed to the line, a history (R27). -/
  txwire : List Byte
  /-- The values returned by `REG_READ`, oldest first, a history (log entry 3). -/
  hostRd : List Word
  /-- What the agents and the environment will present, oldest first (log entry 1). -/
  inputs : List Stimulus
deriving DecidableEq, Repr

/-- No step of the block ends in a fault: "No event stops, stalls or resets anything" (R260), and no
register access faults (R240). The type has no constructor. -/
inductive Fault where
deriving DecidableEq, Repr

/-- Why the model gives a step no meaning. -/
inductive Refusal where
  /-- Raised by the dispatch for an operation without a meaning; no arm of this model raises it. Safe. -/
  | notModelled (mnemonic : String)
deriving DecidableEq, Repr

/-- After reset every piece of state has the value R44 gives. -/
def State.reset : State where
  rxbuf := []
  txq := []
  txCmd := 0x00#8
  txPlen := 0x0000#16
  txp := []
  rxEn := false
  closed := false
  evt := 0#9
  ien := 0#9
  slots := []
  slotSel := 0x00#8
  snap := Slot.empty
  log := { lastPub := 0x00#8, lastUnsup := 0x00#8, lastDecerr := 0x00#8 }
  txwire := []
  hostRd := []
  inputs := []

end Sys2Proof.Machine
end

