-- ==== Sys2Proof/Machine/Flags.lean ====
section
/-! DEFINITION. The event flags (spec/10_state.md R29, spec/60_exceptions.md R262) and the interrupt
output (R270). -/

namespace Sys2Proof.Machine

/-- The nine causes, with the information the three that record one carry (R262). -/
inductive Event where
  | pub (cmd : Byte)
  | cksum
  | decerr (cmd : Byte)
  | unsup (cmd : Byte)
  | deverr
  | closed
  | encLen
  | encBusy
  | encClosed
deriving DecidableEq, Repr

/-- The code of a cause is its bit number in `EVT` and `IEN` (R262). -/
def eventCode : Event → Nat
  | .pub _ => 0
  | .cksum => 1
  | .decerr _ => 2
  | .unsup _ => 3
  | .deverr => 4
  | .closed => 5
  | .encLen => 6
  | .encBusy => 7
  | .encClosed => 8

/-- The flag of an event: the one bit at its code. -/
def eventFlag (e : Event) : BitVec 9 := 1#9 <<< eventCode e

/-- The information an event records (R262): the command code, in the `LOG` byte of its cause. -/
def recordEvent (e : Event) (l : Log) : Log :=
  match e with
  | .pub cmd => { l with lastPub := cmd }
  | .decerr cmd => { l with lastDecerr := cmd }
  | .unsup cmd => { l with lastUnsup := cmd }
  | .cksum => l
  | .deverr => l
  | .closed => l
  | .encLen => l
  | .encBusy => l
  | .encClosed => l

/-- `irq` (R270): level-sensitive, `(EVT AND IEN) != 0`. -/
def irq (s : State) : Bool := (s.evt &&& s.ien) != 0#9

end Sys2Proof.Machine
end

