-- ==== Sys2Proof/Machine/Ops.lean ====
section
/-! DEFINITION. The named operations over the byte-indexed spaces and the slot table (spec/10_state.md
R40), raising an event and clearing it (spec/60_exceptions.md R261, R275), and reset (R44). -/

namespace Sys2Proof.Machine

/-! Sparse tables in canonical form: keys strictly rising, no entry equal to the default. -/

/-- The value at key `k`; an unlisted key has the default `d`. -/
def sparseGet {α : Type} (d : α) (m : List (Nat × α)) (k : Nat) : α :=
  match m with
  | [] => d
  | (j, x) :: rest => if j = k then x else sparseGet d rest k

/-- Put `v` at key `k`, keeping the canonical form: writing the default removes the entry. -/
def sparseSet {α : Type} [DecidableEq α] (d : α) (m : List (Nat × α)) (k : Nat) (v : α) : List (Nat × α) :=
  match m with
  | [] => if v = d then [] else [(k, v)]
  | (j, x) :: rest =>
    if k < j then (if v = d then (j, x) :: rest else (k, v) :: (j, x) :: rest)
    else if k = j then (if v = d then rest else (k, v) :: rest)
    else (j, x) :: sparseSet d rest k v

/-- The canonical form of a table with keys below `bound`. -/
abbrev sparseWf {α : Type} [DecidableEq α] (d : α) (bound : Nat) (m : List (Nat × α)) : Prop :=
  m.Pairwise (fun x y => x.1 < y.1) ∧ ∀ x ∈ m, x.1 < bound ∧ x.2 ≠ d

/-- What a byte that nothing has written reads as: the reset contents (R44). -/
def unwritten : Byte := 0x00#8

/-- One byte of a space. -/
def readByte (m : Memory) (a : Nat) : Byte := sparseGet unwritten m a

/-- One byte written. -/
def writeByte (m : Memory) (a : Nat) (b : Byte) : Memory := sparseSet unwritten m a b

/-- `MemRead(space, a, n)` (R9): the bytes `space[a..a+n-1]`. -/
def memRead (m : Memory) (a n : Nat) : List Byte :=
  match n with
  | 0 => []
  | k + 1 => readByte m a :: memRead m (a + 1) k

/-- `MemWrite(space, a, n, v)` (R9), `n` the length of `v`. -/
def memWrite (m : Memory) (a : Nat) (v : List Byte) : Memory :=
  match v with
  | [] => m
  | b :: bs => memWrite (writeByte m a b) (a + 1) bs

/-- The canonical form of a payload space: 254 entries (R26, R30). -/
abbrev Memory.wf (m : Memory) : Prop := sparseWf unwritten Config.maxPayload m

/-- `SLOT[c]` (R30): every slot exists; one that is not listed has the reset value. -/
def slotAt (t : SlotTable) (c : Byte) : Slot := sparseGet Slot.empty t c.toNat

/-- `SLOT[c] <- r`. -/
def setSlot (t : SlotTable) (c : Byte) (r : Slot) : SlotTable := sparseSet Slot.empty t c.toNat r

/-! Events. -/

/-- `raise e` (R261): set the flag, record the information; it transfers no control and does not look at
`IEN`. This is the block's one form of taking an exception (R274). -/
def raise (e : Event) (s : State) : State :=
  { s with evt := s.evt ||| eventFlag e, log := recordEvent e s.log }

/-- `EVT_CLEAR(m)` (R246): the block's one form of returning from an exception (R275). -/
def evtClear (m : BitVec 9) (s : State) : State := { s with evt := s.evt &&& ~~~m }

/-! Reset. -/

/-- Every piece of state takes its reset value (R44, R245, R290); what is not state of the block stays: the
history of sent bytes, the host's history, and what the agents have still to present (R290, R293; log
entry 2). -/
def resetBlock (s : State) : State :=
  { State.reset with txwire := s.txwire, hostRd := s.hostRd, inputs := s.inputs }

end Sys2Proof.Machine
end

