-- ==== Sys2Proof/Machine/Scan.lean ====
section
/-! DEFINITION. The scan family (spec/41_scan.md): the scanner, RX_PUSH, RX_FLUSH and the outcome DROP1
of the engine step. -/

namespace Sys2Proof.Machine

/-- The results of one attempt (R151). -/
inductive Scan where
  | needMore
  | frame (cmd : Byte) (payload : List Byte) (total : Nat)
  | drop1
deriving DecidableEq, Repr

/-- `scan1(buf)` (R151 to R158): one attempt to find a frame at the front. -/
def scan1 (buf : List Byte) : Scan :=
  if buf.length < Config.minFrame then .needMore
  else if buf.length < total buf then .needMore
  else if lenByte buf = 0 then .drop1
  else
    let cand := buf.take (total buf)
    if frameValid cand then .frame (cmdOf cand) (payloadOf cand) (total buf) else .drop1

/-- The scanner is quiescent (R151). -/
def quiescent (s : State) : Bool := scan1 s.rxbuf == .needMore

/-- `rx_ready` (R42, R150). -/
def rxReady (s : State) : Bool := s.rxEn && !s.closed && quiescent s

/-- What one attempt of `scan_all` reports (R164). -/
inductive ScanOutcome where
  | dropped (b : Byte)
  | frame (cmd : Byte) (payload : List Byte)
deriving DecidableEq, Repr

/-- At most `k` attempts of `scan_all`. -/
def scanSteps : Nat → List Byte → List ScanOutcome × List Byte
  | 0, buf => ([], buf)
  | k + 1, buf =>
    match scan1 buf with
    | .needMore => ([], buf)
    | .drop1 =>
      let r := scanSteps k (buf.drop 1)
      (.dropped (buf.getD 0 0#8) :: r.1, r.2)
    | .frame c p t =>
      let r := scanSteps k (buf.drop t)
      (.frame c p :: r.1, r.2)

/-- `scan_all(buf)` (R164): every attempt removes a byte at least (R163), so `|buf|` attempts are enough. -/
def scanAll (buf : List Byte) : List ScanOutcome × List Byte := scanSteps buf.length buf

/-- `RX_PUSH(b)` (R150): enabled exactly when `rx_ready`; a step that is not enabled does not happen and
the byte stays with the line (log entry 5). -/
def execRxPush (b : Byte) (s : State) : Host.Outcome State Fault Refusal :=
  if rxReady s then .next { s with rxbuf := s.rxbuf ++ [b] } else .next s

/-- `RX_FLUSH` (R165). -/
def rxFlush (s : State) : State := { s with rxbuf := [] }

/-- RX_FLUSH as the write of a `CMDR` value (R165). -/
def execRxFlush (_ignored : BitVec 24) (s : State) : Host.Outcome State Fault Refusal :=
  .next (rxFlush s)

/-- `ENGINE_STEP`, outcome DROP1 (R161): one byte leaves the front, `CKSUM` is raised. Enabled exactly when
`scan1(RXBUF) = DROP1` (R160). -/
def execEngineStepDrop1 (s : State) : Host.Outcome State Fault Refusal :=
  match scan1 s.rxbuf with
  | .drop1 => .next (raise .cksum { s with rxbuf := s.rxbuf.drop 1 })
  | .needMore => .next s
  | .frame _ _ _ => .next s

end Sys2Proof.Machine
end

