-- ==== Sys2Proof/Machine/Demux.lean ====
section
/-! DEFINITION. The demultiplexer family (spec/43_demux.md): PUBLISH and SNAP_LATCH. -/

namespace Sys2Proof.Machine

/-- The slot after a publish (R220): the four fields together; bytes from `plen` on keep old contents. -/
def publishedSlot (old : Slot) (tag : Tag) (payload : List Byte) : Slot where
  seq := old.seq + 1#32
  tag := tag
  plen := BitVec.ofNat 8 payload.length
  data := memWrite old.data 0 payload

/-- The flags that depend on the variant (R221). -/
def raiseVariant (cmd : Byte) (tag : Tag) (s : State) : State :=
  match tag with
  | .raw => raise (.unsup cmd) s
  | .cmderr => raise .deverr s
  | .none | .state | .posdone | .posobst | .moveacc | .refack | .stopack | .gripack | .errack
  | .config | .cmdinfo => s

/-- `PUBLISH(cmd, tag, payload)` (R220, R221). -/
def publish (cmd : Byte) (tag : Tag) (payload : List Byte) (s : State) : State :=
  raiseVariant cmd tag (raise (.pub cmd)
    { s with slots := setSlot s.slots cmd (publishedSlot (slotAt s.slots cmd) tag payload) })

/-- PUBLISH as an operation of its own (R220): the part of the engine step that stores an answer. -/
def execPublish (cmd : Byte) (tag : Tag) (payload : List Byte) (s : State) :
    Host.Outcome State Fault Refusal :=
  .next (publish cmd tag payload s)

/-- `SNAP_LATCH(c)` (R224): the whole slot is copied in one step; the slot is not changed. -/
def snapLatch (c : Byte) (s : State) : State := { s with slotSel := c, snap := slotAt s.slots c }

/-- SNAP_LATCH as the write of `SLOT_SEL`, `c` in bits 7:0 of the value (R224). -/
def execSnapLatch (v : Word) (s : State) : Host.Outcome State Fault Refusal :=
  .next (snapLatch (v.extractLsb' 0 8) s)

end Sys2Proof.Machine
end

