-- ==== Sys2Proof/Machine/Answer.lean ====
section
/-! DEFINITION. The decode family (spec/42_decode.md): what the engine does with the command byte and the
payload of a frame that has left the buffer, and the outcome FRAME of the engine step (spec/41_scan.md
R162). -/

namespace Sys2Proof.Machine

/-- The second half of R162: `decode(cmd, payload)`, then either `raise DECERR(cmd)` (R194) or `PUBLISH`
(R220). -/
def answer (cmd : Byte) (payload : List Byte) (s : State) : State :=
  match decodeAnswer cmd payload with
  | none => raise (.decerr cmd) s
  | some tag => publish cmd tag payload s

/-- `ENGINE_STEP`, outcome FRAME (R162): removal, decoding and publishing are one step. Enabled exactly when
`scan1(RXBUF)` is a frame (R160). -/
def execEngineStepFrame (s : State) : Host.Outcome State Fault Refusal :=
  match scan1 s.rxbuf with
  | .frame cmd payload t => .next (answer cmd payload { s with rxbuf := s.rxbuf.drop t })
  | .needMore => .next s
  | .drop1 => .next s

/-- DEC.STATE (R182): command 0x95, 14 bytes. -/
def execDecState (_pre : BitVec 16) (payload : List Byte) (s : State) : Host.Outcome State Fault Refusal :=
  .next (answer 0x95#8 payload s)

/-- DEC.POSDONE (R183): command 0x94, 4 bytes. -/
def execDecPosdone (_pre : BitVec 16) (payload : List Byte) (s : State) : Host.Outcome State Fault Refusal :=
  .next (answer 0x94#8 payload s)

/-- DEC.POSOBST (R184): command 0x93, 4 bytes. -/
def execDecPosobst (_pre : BitVec 16) (payload : List Byte) (s : State) : Host.Outcome State Fault Refusal :=
  .next (answer 0x93#8 payload s)

/-- DEC.MOVEACC (R185): command 0xB0, 4 bytes. -/
def execDecMoveacc (_pre : BitVec 16) (payload : List Byte) (s : State) : Host.Outcome State Fault Refusal :=
  .next (answer 0xB0#8 payload s)

/-- DEC.REFACK (R186): command 0x92, any length. -/
def execDecRefack (_pre : BitVec 16) (payload : List Byte) (s : State) : Host.Outcome State Fault Refusal :=
  .next (answer 0x92#8 payload s)

/-- DEC.STOPACK (R187): command 0x91, any length. -/
def execDecStopack (_pre : BitVec 16) (payload : List Byte) (s : State) : Host.Outcome State Fault Refusal :=
  .next (answer 0x91#8 payload s)

/-- DEC.GRIPACK (R188): command 0xB7, any length. -/
def execDecGripack (_pre : BitVec 16) (payload : List Byte) (s : State) : Host.Outcome State Fault Refusal :=
  .next (answer 0xB7#8 payload s)

/-- DEC.CMDERR (R189): command 0x88, 1 byte. -/
def execDecCmderr (_pre : BitVec 16) (payload : List Byte) (s : State) : Host.Outcome State Fault Refusal :=
  .next (answer 0x88#8 payload s)

/-- DEC.ERRACK (R190): command 0x8B, any length. -/
def execDecErrack (_pre : BitVec 16) (payload : List Byte) (s : State) : Host.Outcome State Fault Refusal :=
  .next (answer 0x8B#8 payload s)

/-- DEC.CONFIG (R191): command 0x80, any length. -/
def execDecConfig (_pre : BitVec 16) (payload : List Byte) (s : State) : Host.Outcome State Fault Refusal :=
  .next (answer 0x80#8 payload s)

/-- DEC.CMDINFO (R192): command 0x8A, any length. -/
def execDecCmdinfo (_pre : BitVec 16) (payload : List Byte) (s : State) : Host.Outcome State Fault Refusal :=
  .next (answer 0x8A#8 payload s)

/-- DEC.RAW (R193): every command byte outside the eleven rows, any length. -/
def execDecRaw (_pre : BitVec 16) (cmd : Byte) (payload : List Byte) (s : State) :
    Host.Outcome State Fault Refusal :=
  .next (answer cmd payload s)

end Sys2Proof.Machine
end

