-- ==== Sys2Proof/Machine/Operands.lean ====
section
/-! DEFINITION. The operand forms: the register map (spec/10_state.md R34, spec/43_demux.md R225 to R228,
spec/44_system.md R242) and the typed fields of an answer (spec/42_decode.md R196 to R203). -/

namespace Sys2Proof.Machine

/-- One bit as a field. -/
def bit (b : Bool) : BitVec 1 := BitVec.ofBool b

/-- `closed_out` (R42). -/
def closedOut (s : State) : Bool := s.closed

/-- `STATUS` (R34, R242): `TX_BUSY` bit 0, `CLOSED` bit 1, `RX_IDLE` bit 2, `RX_LEN` bits 16:8, `TXQ_LEN`
bits 28:20, all other bits 0. -/
def statusWord (s : State) : Word :=
  0#3 ++ BitVec.ofNat 9 s.txq.length ++ 0#3 ++ BitVec.ofNat 9 s.rxbuf.length ++ 0#5
    ++ bit (quiescent s) ++ bit s.closed ++ bit (s.txq != [])

/-- `LOG` (R34): `LAST_PUB` bits 7:0, `LAST_UNSUP` bits 15:8, `LAST_DECERR` bits 23:16. -/
def logWord (l : Log) : Word := 0#8 ++ l.lastDecerr ++ l.lastUnsup ++ l.lastPub

/-- `SNAP_INFO` (R225): tag in bits 3:0, `plen` in bits 15:8. -/
def infoWord (r : Slot) : Word := 0#16 ++ r.plen ++ 0#4 ++ tagCode r.tag

/-- `SNAP_DATA[i]` (R226): nothing of an older, longer answer shows through. -/
def dataByte (r : Slot) (i : Nat) : Byte := if i < r.plen.toNat then readByte r.data i else 0#8

/-- `SNAP_Fk` (R227): the little-endian word at payload offset `4k` where the payload has it, else 0. -/
def floatWord (r : Slot) (k : Nat) : Word :=
  if 4 * k + 4 ≤ r.plen.toNat then
    le32 (readByte r.data (4 * k)) (readByte r.data (4 * k + 1)) (readByte r.data (4 * k + 2))
      (readByte r.data (4 * k + 3))
  else 0#32

/-- `SNAP_ST` (R228): `STATUS_BYTE` bits 7:0, `ERR_CODE` bits 15:8, `ERRCAT` bits 23:16, by the tag. -/
def statusView (r : Slot) : Word :=
  match r.tag with
  | .state =>
    0#8 ++ Config.errtab (readByte r.data 13) ++ readByte r.data 13 ++ readByte r.data 12
  | .cmderr => 0#8 ++ Config.errtab (readByte r.data 0) ++ readByte r.data 0 ++ 0#8
  | .none | .posdone | .posobst | .moveacc | .refack | .stopack | .gripack | .errack | .config
  | .cmdinfo | .raw => 0#32

/-- The value of register `n` (R34): reserved numbers and the write-only `CMDR` read 0; bits above a
register's width read 0. -/
def regValue (n : RegNum) (s : State) : Word :=
  if n = 0x000#12 then (bit s.rxEn).setWidth 32
  else if n = 0x002#12 then statusWord s
  else if n = 0x003#12 then s.evt.setWidth 32
  else if n = 0x004#12 then s.ien.setWidth 32
  else if n = 0x005#12 then logWord s.log
  else if n = 0x008#12 then s.txCmd.setWidth 32
  else if n = 0x009#12 then s.txPlen.setWidth 32
  else if n = 0x010#12 then s.slotSel.setWidth 32
  else if n = 0x011#12 then s.snap.seq
  else if n = 0x012#12 then infoWord s.snap
  else if n = 0x013#12 then floatWord s.snap 0
  else if n = 0x014#12 then floatWord s.snap 1
  else if n = 0x015#12 then floatWord s.snap 2
  else if n = 0x016#12 then statusView s.snap
  else if 0x100 ≤ n.toNat ∧ n.toNat ≤ 0x1FD then (readByte s.txp (n.toNat - 0x100)).setWidth 32
  else if 0x200 ≤ n.toNat ∧ n.toNat ≤ 0x2FD then (dataByte s.snap (n.toNat - 0x200)).setWidth 32
  else 0#32

/-! The typed fields of an answer `(tag, payload)` (R31). -/

/-- The float32 word at payload offset `o` (R103 (f), R200): not converted. -/
def floatAt (p : List Byte) (o : Nat) : Word :=
  le32 (p.getD o 0#8) (p.getD (o + 1) 0#8) (p.getD (o + 2) 0#8) (p.getD (o + 3) 0#8)

/-- `position(a)` (R196): defined for `STATE`, `POSDONE` and `POSOBST`. -/
def position (tag : Tag) (p : List Byte) : Option Word :=
  if tag = .state ∨ tag = .posdone ∨ tag = .posobst then some (floatAt p 0) else none

/-- `velocity(a)` (R196): defined for `STATE`. -/
def velocity (tag : Tag) (p : List Byte) : Option Word :=
  if tag = .state then some (floatAt p 4) else none

/-- `current(a)` (R196): defined for `STATE`. -/
def current (tag : Tag) (p : List Byte) : Option Word :=
  if tag = .state then some (floatAt p 8) else none

/-- `elapsed_time(a)` (R196): defined for `MOVEACC`. -/
def elapsedTime (tag : Tag) (p : List Byte) : Option Word :=
  if tag = .moveacc then some (floatAt p 0) else none

/-- `status(a)` (R197): defined for `STATE`. -/
def statusByte (tag : Tag) (p : List Byte) : Option Byte :=
  if tag = .state then some (p.getD 12 0#8) else none

/-- `error_code(a)` for `STATE`, `code(a)` for `CMDERR` (R197). -/
def errorCode (tag : Tag) (p : List Byte) : Option Byte :=
  if tag = .state then some (p.getD 13 0#8) else if tag = .cmderr then some (p.getD 0 0#8) else none

/-- `error_category(a)` (R197, R203): the lookup never fails. -/
def errorCategory (tag : Tag) (p : List Byte) : Option Byte := (errorCode tag p).map Config.errtab

/-- `ERRSTR(index)` (R203): index 0 is "Unknown"; the other strings are OPEN. -/
def errstr (index : Byte) : String := if index = 0x00#8 then "Unknown" else Config.errstrListed index

/-- `message = ERRSTR(ERRTAB(code))` of a command error (R189). -/
def message (tag : Tag) (p : List Byte) : Option String :=
  if tag = .cmderr then (errorCategory tag p).map errstr else none

/-- The eight flags of the status byte, in the order of R201. -/
inductive StatusFlag where
  | referenced | moving | programMode | warning | error | brake | moveEnd | positionReached
deriving DecidableEq, Repr

/-- The bit of a flag in the status byte (R201). -/
def statusBit : StatusFlag → Nat
  | .referenced => 0
  | .moving => 1
  | .programMode => 2
  | .warning => 3
  | .error => 4
  | .brake => 5
  | .moveEnd => 6
  | .positionReached => 7

/-- `flag_k(a)` (R201): each bit tested independently. -/
def statusFlag (f : StatusFlag) (status : Byte) : Bool := status.getLsbD (statusBit f)

/-- How a float32 word reads as a number (R200, the passage the spec marks as general knowledge, G2; log
entry 13). The block itself never looks. -/
inductive FloatReading where
  | zero (negative : Bool)
  /-- `(-1)^s * significand * 2^exponent`. -/
  | finite (negative : Bool) (significand : Nat) (exponent : Int)
  | infinity (negative : Bool)
  | nan
deriving DecidableEq, Repr

/-- The reading of a word: `s` bit 31, `e` bits 30:23, `f` bits 22:0 (R200). -/
def floatReading (w : Word) : FloatReading :=
  let s := w.getLsbD 31
  let e := (w.extractLsb' 23 8).toNat
  let f := (w.extractLsb' 0 23).toNat
  if e = 0 then (if f = 0 then .zero s else .finite s f (-149))
  else if e = 255 then (if f = 0 then .infinity s else .nan)
  else .finite s (2 ^ 23 + f) ((e : Int) - 150)

end Sys2Proof.Machine
end

