-- ==== Sys2Proof/Machine/Transmit.lean ====
section
/-! DEFINITION. The encode family (spec/40_encode.md): FRAME, ENCODE and TX_POP. -/

namespace Sys2Proof.Machine

/-- `tx_valid` (R42, R136). -/
def txValid (s : State) : Bool := !s.txq.isEmpty

/-- `tx_data` (R42, R136): `TXQ[0]`; there is none while `tx_valid` = 0 (log entry 15). -/
def txData (s : State) : Option Byte := s.txq.head?

/-- `TXQ <- frame(cmd, payload)` (R130, R131): the whole frame enters in one step. -/
def loadFrame (cmd : Byte) (payload : List Byte) (s : State) : State := { s with txq := frame cmd payload }

/-- FRAME (R130): what a successful ENCODE does with the staged command and payload. -/
def execFrame (cmd : Byte) (payload : List Byte) (s : State) : Host.Outcome State Fault Refusal :=
  .next (loadFrame cmd payload s)

/-- `ENCODE` (R131): the three refusals in the priority of R135, else the staged frame enters `TXQ`. -/
def encodeOp (s : State) : State :=
  if s.closed then raise .encClosed s
  else if s.txq ≠ [] then raise .encBusy s
  else if Config.maxPayload < s.txPlen.toNat then raise .encLen s
  else loadFrame s.txCmd (memRead s.txp 0 s.txPlen.toNat) s

/-- ENCODE as the write of a `CMDR` value (R131). -/
def execEncode (_ignored : BitVec 24) (s : State) : Host.Outcome State Fault Refusal :=
  .next (encodeOp s)

/-- `TX_POP` (R136): enabled exactly when `TXQ` is not empty; the line takes `TXQ[0]`, which joins the
history. -/
def execTxPop (s : State) : Host.Outcome State Fault Refusal :=
  match s.txq with
  | [] => .next s
  | b :: rest => .next { s with txq := rest, txwire := s.txwire ++ [b] }

end Sys2Proof.Machine
end

