-- ==== Sys2Proof/Machine/System.lean ====
section
/-! DEFINITION. The system family (spec/44_system.md): closing, reset, the enables, and the generic
register access; HARD_RESET (spec/70_reset_and_hazards.md R290). -/

namespace Sys2Proof.Machine

/-- `CLOSED` goes from 0 to 1, with its event (R243, R244). -/
def markClosed (s : State) : State := raise .closed { s with closed := true }

/-- `CLOSE` (R243): nothing when already closed. -/
def closeOp (s : State) : State := if s.closed then s else markClosed s

/-- CLOSE as the write of a `CMDR` value (R243). -/
def execClose (_ignored : BitVec 24) (s : State) : Host.Outcome State Fault Refusal :=
  .next (closeOp s)

/-- `RX_CLOSE` (R244): enabled exactly when `rx_ready`; until then the line keeps its indication (log
entry 5). -/
def execRxClose (s : State) : Host.Outcome State Fault Refusal :=
  if rxReady s then .next (markClosed s) else .next s

/-- SOFT_RESET as the write of a `CMDR` value (R245). -/
def execSoftReset (_ignored : BitVec 24) (s : State) : Host.Outcome State Fault Refusal :=
  .next (resetBlock s)

/-- HARD_RESET (R290): the effect of SOFT_RESET (R291), caused by the reset input. -/
def execHardReset (s : State) : Host.Outcome State Fault Refusal :=
  .next (resetBlock s)

/-- `CTRL_WRITE(v)` (R247): `RX_EN <- v[0]`. -/
def ctrlWrite (v : Word) (s : State) : State := { s with rxEn := v.getLsbD 0 }

/-- CTRL_WRITE (R247). -/
def execCtrlWrite (v : Word) (s : State) : Host.Outcome State Fault Refusal :=
  .next (ctrlWrite v s)

/-- EVT_CLEAR (R246): `m` = `v[8:0]`. -/
def execEvtClear (v : Word) (s : State) : Host.Outcome State Fault Refusal :=
  .next (evtClear (v.extractLsb' 0 9) s)

/-- `IEN_WRITE(v)` (R247): `IEN <- v[8:0]`. -/
def ienWrite (v : Word) (s : State) : State := { s with ien := v.extractLsb' 0 9 }

/-- IEN_WRITE (R247). -/
def execIenWrite (v : Word) (s : State) : Host.Outcome State Fault Refusal :=
  .next (ienWrite v s)

/-- A write to `CMDR` (R241): the operation of `v[7:0]`; any other value does nothing. -/
def cmdrWrite (v : Word) (s : State) : State :=
  if v.extractLsb' 0 8 = 0x01#8 then encodeOp s
  else if v.extractLsb' 0 8 = 0x02#8 then rxFlush s
  else if v.extractLsb' 0 8 = 0x03#8 then closeOp s
  else if v.extractLsb' 0 8 = 0x04#8 then resetBlock s
  else s

/-- `REG_WRITE(n, v)` (R240): read-only and reserved registers ignore the write. -/
def regWrite (n : RegNum) (v : Word) (s : State) : State :=
  if n = 0x000#12 then ctrlWrite v s
  else if n = 0x001#12 then cmdrWrite v s
  else if n = 0x003#12 then evtClear (v.extractLsb' 0 9) s
  else if n = 0x004#12 then ienWrite v s
  else if n = 0x008#12 then { s with txCmd := v.extractLsb' 0 8 }
  else if n = 0x009#12 then { s with txPlen := v.extractLsb' 0 16 }
  else if n = 0x010#12 then snapLatch (v.extractLsb' 0 8) s
  else if 0x100 ≤ n.toNat ∧ n.toNat ≤ 0x1FD then
    { s with txp := writeByte s.txp (n.toNat - 0x100) (v.extractLsb' 0 8) }
  else s

/-- REG_WRITE (R240). -/
def execRegWrite (n : RegNum) (v : Word) (s : State) : Host.Outcome State Fault Refusal :=
  .next (regWrite n v s)

/-- REG_READ (R240): the value is returned to the host; no state of the block changes. -/
def execRegRead (n : RegNum) (s : State) : Host.Outcome State Fault Refusal :=
  .next { s with hostRd := s.hostRd ++ [regValue n s] }

end Sys2Proof.Machine
end

