-- ==== Sys2Proof/Machine/Dispatch.lean ====
section
/-! DEFINITION. One arm per operation. -/

namespace Sys2Proof.Machine

def exec (i : Instr) (s : State) : Host.Outcome State Fault Refusal :=
  match i with
  | .decState pre payload => Sys2Proof.Machine.execDecState pre payload s
  | .decPosdone pre payload => Sys2Proof.Machine.execDecPosdone pre payload s
  | .decPosobst pre payload => Sys2Proof.Machine.execDecPosobst pre payload s
  | .decMoveacc pre payload => Sys2Proof.Machine.execDecMoveacc pre payload s
  | .decRefack pre payload => Sys2Proof.Machine.execDecRefack pre payload s
  | .decStopack pre payload => Sys2Proof.Machine.execDecStopack pre payload s
  | .decGripack pre payload => Sys2Proof.Machine.execDecGripack pre payload s
  | .decCmderr pre payload => Sys2Proof.Machine.execDecCmderr pre payload s
  | .decErrack pre payload => Sys2Proof.Machine.execDecErrack pre payload s
  | .decConfig pre payload => Sys2Proof.Machine.execDecConfig pre payload s
  | .decCmdinfo pre payload => Sys2Proof.Machine.execDecCmdinfo pre payload s
  | .decRaw pre cmd payload => Sys2Proof.Machine.execDecRaw pre cmd payload s
  | .frame cmd payload => Sys2Proof.Machine.execFrame cmd payload s
  | .encode ignored => Sys2Proof.Machine.execEncode ignored s
  | .rxFlush ignored => Sys2Proof.Machine.execRxFlush ignored s
  | .close ignored => Sys2Proof.Machine.execClose ignored s
  | .softReset ignored => Sys2Proof.Machine.execSoftReset ignored s
  | .ctrlWrite v => Sys2Proof.Machine.execCtrlWrite v s
  | .evtClear v => Sys2Proof.Machine.execEvtClear v s
  | .ienWrite v => Sys2Proof.Machine.execIenWrite v s
  | .snapLatch v => Sys2Proof.Machine.execSnapLatch v s
  | .regWrite n v => Sys2Proof.Machine.execRegWrite n v s
  | .regRead n => Sys2Proof.Machine.execRegRead n s
  | .rxPush b => Sys2Proof.Machine.execRxPush b s
  | .engineStepDrop1 => Sys2Proof.Machine.execEngineStepDrop1 s
  | .engineStepFrame => Sys2Proof.Machine.execEngineStepFrame s
  | .publish cmd tag payload => Sys2Proof.Machine.execPublish cmd tag payload s
  | .txPop => Sys2Proof.Machine.execTxPop s
  | .rxClose => Sys2Proof.Machine.execRxClose s
  | .hardReset => Sys2Proof.Machine.execHardReset s

end Sys2Proof.Machine
end

