-- ==== Sys2Proof/Machine/Fetch.lean ====
section
/-! DEFINITION. Which operation the block performs next, and where a table word is placed for it.
The spec fixes no order between the agents (spec/10_state.md R20); the order is the list `inputs`
(log entry 1). -/

namespace Sys2Proof.Machine

/-- Is the stimulus one of the receive line, enabled only while `rx_ready` (R150, R244)? -/
def fromLineRx : Stimulus → Bool
  | .rxByte _ => true
  | .rxClosed => true
  | .regWrite _ _ => false
  | .regRead _ => false
  | .engineDrop1 => false
  | .engineFrame => false
  | .txTake => false
  | .reset => false

/-- The first stimulus that is not the receive line's, and the list without it: what the line holds stays
in its order. -/
def firstOther : List Stimulus → Option (Stimulus × List Stimulus)
  | [] => none
  | x :: rest =>
    if fromLineRx x then (firstOther rest).map (fun r => (r.1, x :: r.2)) else some (x, rest)

/-- The next stimulus and the ones left. While `rx_ready` = 0 the line holds its bytes and its closed
indication (R150): the engine moves first if it can, else another agent's stimulus is taken. -/
def nextStimulus (s : State) : Option (Stimulus × List Stimulus) :=
  match s.inputs with
  | [] => none
  | x :: rest =>
    if fromLineRx x && !rxReady s then (if quiescent s then firstOther (x :: rest) else none)
    else some (x, rest)

/-- The engine's step, when it has one (R160). -/
def engineInstr (s : State) : Option Instr :=
  match scan1 s.rxbuf with
  | .needMore => none
  | .drop1 => some .engineStepDrop1
  | .frame _ _ _ => some .engineStepFrame

/-- The operation of the next step and the state it acts on: that of the next stimulus, decoded; without
one, the engine's; without that, none. -/
def nextInstr (s : State) : Option (Instr × State) :=
  match nextStimulus s with
  | some (x, rest) => some (decodeStimulus x, { s with inputs := rest })
  | none => (engineInstr s).map (fun i => (i, s))

/-- Place a code so that the very next step performs it (log entry 7): a candidate is put at the front of
`RXBUF` and the engine moves; a frame is staged and ENCODE is written; a stimulus is presented. -/
def placeCode (c : Code) (s : State) : State :=
  match c with
  | .frameRx cand => { s with rxbuf := cand, inputs := .engineFrame :: s.inputs }
  | .frameTx sent =>
    { s with
      closed := false
      txq := []
      txCmd := cmdOf sent
      txPlen := BitVec.ofNat 16 (payloadOf sent).length
      txp := memWrite [] 0 (payloadOf sent)
      inputs := .regWrite 0x001#12 0x00000001#32 :: s.inputs }
  | .port x => { s with inputs := x :: s.inputs }
  | .publish cmd _ payload =>
    { s with rxbuf := candidateOf preamble cmd payload, inputs := .engineFrame :: s.inputs }

end Sys2Proof.Machine
end

