-- ==== Sys2Proof/Machine/Step.lean ====
section
/-! DEFINITION. One step of the machine. -/

namespace Sys2Proof.Machine

/-- One atomic step (spec/00_scope.md R5): the next operation is performed; when no agent has one, nothing
happens. -/
def step (s : State) : Host.Outcome State Fault Refusal :=
  match nextInstr s with
  | some (i, s') => exec i s'
  | none => .next s

/-- `s` with a word of the opcode table placed for the next step (log entry 7). -/
def State.withFetchWord (s : State) (nbits w : Nat) : State := placeCode (tableCode nbits w) s

end Sys2Proof.Machine
end

