-- ==== Sys2Proof/Machine/Scenario.lean ====
section
/-! DEFINITION. The host's side: the scenario notation (spec/30_encoding.md R120), the controller facade as
pseudo-operations (R121) and one poll of the wait protocol (spec/43_demux.md R232). They are host software
(spec/00_scope.md R4 (b), (c)); the block sees only the stimuli (log entry 12). -/

namespace Sys2Proof.Machine

/-- `RX b0 b1 ...` (R120): the bytes the line offers; the engine moves while the line is held. -/
def rxLine (bytes : List Byte) : List Stimulus := bytes.map Stimulus.rxByte

/-- `WR name, v` (R120). -/
def wr (n : RegNum) (v : Word) : List Stimulus := [.regWrite n v]

/-- `RD name` (R120). -/
def rd (n : RegNum) : List Stimulus := [.regRead n]

/-- `LATCH c` (R120). -/
def latch (c : Byte) : List Stimulus := wr 0x010#12 (c.setWidth 32)

/-- `REG_WRITE(TXP[i], p_i)` for each byte, from entry `i` on. -/
def stageBytes (i : Nat) (p : List Byte) : List Stimulus :=
  match p with
  | [] => []
  | b :: bs => .regWrite (BitVec.ofNat 12 (0x100 + i)) (b.setWidth 32) :: stageBytes (i + 1) bs

/-- `ENC cmd, [p0 p1 ...]` (R120). -/
def enc (cmd : Byte) (p : List Byte) : List Stimulus :=
  wr 0x008#12 (cmd.setWidth 32) ++ stageBytes 0 p ++ wr 0x009#12 (BitVec.ofNat 32 p.length)
    ++ wr 0x001#12 0x00000001#32

/-- `TXDRAIN` (R120) of a queue of `n` bytes. -/
def txDrain (n : Nat) : List Stimulus := List.replicate n .txTake

/-- `CLR m` (R120). -/
def clr (m : BitVec 9) : List Stimulus := wr 0x003#12 (m.setWidth 32)

/-- `FLUSH` (R120). -/
def flush : List Stimulus := wr 0x001#12 0x00000002#32

/-- `CLOSE` (R120). -/
def closeWrite : List Stimulus := wr 0x001#12 0x00000003#32

/-- `SRESET` (R120). -/
def sreset : List Stimulus := wr 0x001#12 0x00000004#32

/-- `CAPTURE s, c` (R120): the last value read is `s`. -/
def capture (c : Byte) : List Stimulus := latch c ++ rd 0x011#12

/-- The accesses of one iteration of `WAIT c, s` (R120, R232 step 3), in their order. -/
def pollAccesses (c : Byte) : List Stimulus := latch c ++ rd 0x011#12 ++ rd 0x002#12

/-- What one iteration of the wait decides (R232, R233). -/
inductive WaitResult where
  | answer | connectionClosed | timedOut | again
deriving DecidableEq, Repr

/-- One iteration (R232): the sequence number moved, else `STATUS.CLOSED`, else the host's own timer. -/
def waitPoll (captured seq status : Word) (late : Bool) : WaitResult :=
  if seq ≠ captured then .answer
  else if status.getLsbD 1 then .connectionClosed
  else if late then .timedOut
  else .again

/-- `CAPTURE s, reply` before `ENC cmd, P` (R121, R232 steps 1 and 2). -/
def exchange (reply cmd : Byte) (p : List Byte) : List Stimulus := capture reply ++ enc cmd p

/-- `get_state` (R121). -/
def getState (p : List Byte) : List Stimulus := exchange 0x95#8 0x95#8 p

/-- `set_reference` (R121). -/
def setReference (p : List Byte) : List Stimulus := exchange 0x92#8 0x92#8 p

/-- `estop` (R121). -/
def estop (p : List Byte) : List Stimulus := exchange 0x90#8 0x90#8 p

/-- `stop` (R121). -/
def stop (p : List Byte) : List Stimulus := exchange 0x91#8 0x91#8 p

/-- `move_to` (R121): the expected-reply code is an explicit parameter. -/
def moveTo (reply : Byte) (p : List Byte) : List Stimulus := exchange reply 0xB0#8 p

/-- `grip` (R121). -/
def grip (reply : Byte) (p : List Byte) : List Stimulus := exchange reply 0xB7#8 p

/-- `acknowledge_error` (R121). -/
def acknowledgeError (p : List Byte) : List Stimulus := exchange 0x8B#8 0x8B#8 p

/-- The check of `acknowledge_error` after its wait (R121): "the reply is specifically the acknowledge-ack
variant". -/
def acknowledged (tag : Tag) : Bool := tag == .errack

end Sys2Proof.Machine
end

