-- ==== Sys2Proof/Safety.lean ====
section
/-! DEFINITION. The terms the claims use: the invariants of spec/10_state.md R45, what a publish leaves
(spec/43_demux.md R220), the wire history (spec/40_encode.md R137), and the effect of a list of scan
outcomes (spec/41_scan.md R164). -/

namespace Sys2Proof.Machine

/-- A slot of command code `c` as R45 (e), (f) allows it: empty, or an answer of the variant that the
dispatch table gives for `c`, of a length the variant allows. -/
abbrev SlotOk (c : Byte) (r : Slot) : Prop :=
  Memory.wf r.data ∧ r.plen.toNat ≤ Config.maxPayload ∧ (r.tag = .none → r = Slot.empty) ∧
  (r.tag ≠ .none → r.tag = (dispatch c).1 ∧ needMet (dispatch c).2 r.plen.toNat = true)

/-- `TXQ` is empty or a non-empty suffix of one frame (R45 (d)). -/
def TxqOk (q : List Byte) : Prop :=
  q = [] ∨ ∃ cmd payload, payload.length ≤ Config.maxPayload ∧ q <:+ frame cmd payload

/-- The invariants of R45, with the canonical form of every space. -/
structure Inv (s : State) : Prop where
  /-- R45 (a). -/
  rxLen : s.rxbuf.length ≤ Config.rxbufDepth
  /-- R45 (d). -/
  txq : TxqOk s.txq
  /-- `TXP` is a space of 254 bytes in canonical form (R26). -/
  txp : Memory.wf s.txp
  /-- The slot table has 256 slots in canonical form (R30). -/
  slots : sparseWf Slot.empty 256 s.slots
  /-- R45 (e), (f), of every slot. -/
  slotOk : ∀ c, SlotOk c (slotAt s.slots c)
  /-- `SNAP` is a copy of a slot of the selected code (R32). -/
  snap : SlotOk s.slotSel s.snap

/-- The flags a publish of a variant raises (R220, R221): `PUB`, with `UNSUP` for `RAW` and `DEVERR` for
`CMDERR`. -/
def publishFlags (tag : Tag) : BitVec 9 :=
  if tag = .raw then 0x009#9 else if tag = .cmderr then 0x011#9 else 0x001#9

/-- `t` is `s` after `PUBLISH(cmd, tag, payload)`, told by reads (R220, R221, R231). -/
structure Published (s t : State) (cmd : Byte) (tag : Tag) (payload : List Byte) : Prop where
  seqNext : (slotAt t.slots cmd).seq = (slotAt s.slots cmd).seq + 1#32
  tagStored : (slotAt t.slots cmd).tag = tag
  plenStored : (slotAt t.slots cmd).plen.toNat = payload.length
  stored : ∀ i < payload.length, readByte (slotAt t.slots cmd).data i = payload.getD i 0#8
  kept : ∀ i, payload.length ≤ i → readByte (slotAt t.slots cmd).data i = readByte (slotAt s.slots cmd).data i
  others : ∀ c, c ≠ cmd → slotAt t.slots c = slotAt s.slots c
  flags : t.evt = s.evt ||| publishFlags tag
  logged : t.log = { s.log with lastPub := cmd, lastUnsup := if tag = .raw then cmd else s.log.lastUnsup }
  unchanged : t = { s with slots := t.slots, evt := t.evt, log := t.log }

/-- `TXWIRE` is complete frames and at most one proper prefix of a frame, whose rest is `TXQ` (R137 (a)). -/
def WireWhole (s : State) : Prop :=
  ∃ (sent : List (Byte × List Byte)) (part : List Byte),
    (∀ f ∈ sent, f.2.length ≤ Config.maxPayload) ∧
    s.txwire = (sent.map (fun f => frame f.1 f.2)).flatten ++ part ∧
    ((part = [] ∧ s.txq = []) ∨
      (s.txq ≠ [] ∧ ∃ cmd payload, payload.length ≤ Config.maxPayload ∧ part ++ s.txq = frame cmd payload))

/-- The operations that reset the block (R245, R290), the `CMDR` value 0x04 among them. -/
def isReset : Instr → Bool
  | .softReset _ => true
  | .hardReset => true
  | .regWrite n v => n == 0x001#12 && v.extractLsb' 0 8 == 0x04#8
  | .decState _ _ | .decPosdone _ _ | .decPosobst _ _ | .decMoveacc _ _ | .decRefack _ _
  | .decStopack _ _ | .decGripack _ _ | .decCmderr _ _ | .decErrack _ _ | .decConfig _ _
  | .decCmdinfo _ _ | .decRaw _ _ _ | .frame _ _ | .encode _ | .rxFlush _ | .close _ | .ctrlWrite _
  | .evtClear _ | .ienWrite _ | .snapLatch _ | .regRead _ | .rxPush _ | .engineStepDrop1
  | .engineStepFrame | .publish _ _ _ | .txPop | .rxClose => false

/-- The effect of scan outcomes on everything but `RXBUF` (R161, R162). -/
def applyOutcomes (outs : List ScanOutcome) (s : State) : State :=
  match outs with
  | [] => s
  | .dropped _ :: rest => applyOutcomes rest (raise .cksum s)
  | .frame cmd payload :: rest => applyOutcomes rest (answer cmd payload s)

/-- The number of publishes to slot `c` among scan outcomes (R229). -/
def publishCount (c : Byte) (outs : List ScanOutcome) : Nat :=
  match outs with
  | [] => 0
  | .dropped _ :: rest => publishCount c rest
  | .frame cmd payload :: rest =>
    (if cmd = c ∧ (decodeAnswer cmd payload).isSome then 1 else 0) + publishCount c rest

end Sys2Proof.Machine
end

