-- ==== Sys2Proof/Certificates/Slice0/Obligations.lean ====
section
/-! DEFINITION. The statements for the provers, in the order of OBLIGATIONS.json. -/

open Sys2Proof Sys2Proof.Machine

/-! Encodings (spec/30_encoding.md). -/

/-- Words written out from R90, R94, R101 and R107, by hand and from the vectors V5.1, V4.1j and V3.7, decode to the
operations they stand for; six zero bytes and a wrong trailer are rejected by name (R98, R155). -/
def Obligations.WrittenWordsDecode : Prop :=
  decode (.frameRx [0x05, 0x0C, 0x01, 0x91, 0x00, 0xF3]) = .ok (.decStopack 0x050C []) ∧
  decode (.frameRx [0x05, 0x0C, 0x0F, 0x95, 0x00, 0x00, 0x20, 0x41, 0x00, 0x00, 0x00, 0x00, 0x00, 0x00,
    0x80, 0x3E, 0x81, 0x00, 0x3D, 0x8B]) = .ok (.decState 0x050C [0x00, 0x00, 0x20, 0x41, 0x00, 0x00, 0x00,
      0x00, 0x00, 0x00, 0x80, 0x3E, 0x81, 0x00]) ∧
  decode (.frameRx [0x07, 0x0C, 0x01, 0x91, 0x01, 0x4B]) = .ok (.decStopack 0x070C []) ∧
  decode (.frameTx [0x05, 0x0C, 0x02, 0x95, 0x00, 0x01, 0xC0]) = .ok (.frame 0x95 [0x00]) ∧
  decode (.port (.regWrite 0x001 0x00000103)) = .ok (.close 0x000001) ∧
  decode (.port (.regWrite 0x010 0x00000094)) = .ok (.snapLatch 0x00000094) ∧
  decode (.frameRx [0x00, 0x00, 0x00, 0x00, 0x00, 0x00]) = .error .lengthZero ∧
  decode (.frameRx [0x05, 0x0C, 0x01, 0x91, 0x00, 0xF2]) = .error .badChecksum

/-- Decoding the encoding of a well-formed operation gives it back, every operand included (R90, R95, R101, R107). -/
def Obligations.DecodeOfEncode : Prop :=
  ∀ i : Instr, i.wellFormed = true → decode (encode i) = .ok i

/-- A code that decodes is the encoding of what it decodes to, which is well-formed: no two codes share a
meaning and no bit of a code is dropped (R90, R95, R98, R101, R107). -/
def Obligations.EncodeOfDecode : Prop :=
  ∀ (c : Code) (i : Instr), decode c = .ok i → i.wellFormed = true ∧ encode i = c

/-- A row other than those of the generic register access applies to the encodings of its own operation only, DEC.RAW
among them, "only when no other FRAME_RX row matches"; and a row applies to a received candidate only if it is valid
(R107). -/
def Obligations.SelectiveRowsDisjoint : Prop :=
  (∀ i j : Instr, i.wellFormed = true → j.wellFormed = true → (rowOf i).format ≠ .reg →
    (rowOf i).applies (encode j) = true → rowOf j = rowOf i) ∧
  ∀ (i : Instr) (cand : List Byte), (rowOf i).applies (.frameRx cand) = true →
    frameFault cand = none ∧ lenByte cand ≠ 0 ∧ frameValid cand = true

/-! The checksum and the frame. -/

/-- The byte-table form of the checksum: one byte is the high byte of the running value XOR the table entry of
its low byte XOR the byte (R97 (b)). -/
def Obligations.CrcTableForm : Prop :=
  ∀ (c : BitVec 16) (b : Byte),
    crcByte c b = (c >>> 8) ^^^ crcShift 8 ((c ^^^ b.setWidth 16) &&& 0x00FF#16)

/-- The reflected and the unreflected wording of the checksum give the same value for every input (R96). -/
def Obligations.CrcUnreflectedAgrees : Prop :=
  ∀ s : List Byte, crc16 s = crc16Unreflected s

/-- The validity test may be implemented as "crc16 of the whole candidate is zero": it accepts exactly the same
candidates (R97 (c), R98). -/
def Obligations.FrameValidIffResidueZero : Prop :=
  ∀ cand : List Byte, cand.length = total cand → (frameValid cand = true ↔ crc16 cand = 0x0000#16)

/-- The bytes of a frame, one by one (R90, R130): preamble, length byte, command, payload, and the checksum over
everything before it, low byte first. -/
def Obligations.FrameLayout : Prop :=
  ∀ (cmd : Byte) (p : List Byte), p.length ≤ 254 →
    (frame cmd p).length = p.length + 6 ∧
    (frame cmd p).getD 0 0#8 = 0x05#8 ∧ (frame cmd p).getD 1 0#8 = 0x0C#8 ∧
    ((frame cmd p).getD 2 0#8).toNat = 1 + p.length ∧ (frame cmd p).getD 3 0#8 = cmd ∧
    (∀ i < p.length, (frame cmd p).getD (4 + i) 0#8 = p.getD i 0#8) ∧
    (frame cmd p).getD (p.length + 4) 0#8 = (crc16 ((frame cmd p).take (p.length + 4))).extractLsb' 0 8 ∧
    (frame cmd p).getD (p.length + 5) 0#8 = (crc16 ((frame cmd p).take (p.length + 4))).extractLsb' 8 8

/-! The scanner (spec/41_scan.md). -/

/-- The scanner cuts a frame with any preamble and any bytes behind it into its command and payload (R94,
R137 (b), R151, R157). -/
def Obligations.ScanRoundTrip : Prop :=
  ∀ (pre : BitVec 16) (cmd : Byte) (p rest : List Byte), p.length ≤ 254 →
    scan1 (candidateOf pre cmd p ++ rest) = .frame cmd p (6 + p.length)

/-- "bytes after the candidate never influence the result" (R151): once the scanner has an answer, more bytes do
not change it. -/
def Obligations.ScanLooksOnlyAtCandidate : Prop :=
  ∀ buf rest : List Byte, scan1 buf ≠ .needMore → scan1 (buf ++ rest) = scan1 buf

/-- The scanner waits exactly while there are fewer than 6 bytes or fewer than 5 plus the byte at offset 2
(R152, R153, R154), whatever the bytes are. -/
def Obligations.ScanWaitsExactly : Prop :=
  ∀ buf : List Byte,
    scan1 buf = .needMore ↔ buf.length < 6 ∨ buf.length < 5 + (buf.getD 2 0#8).toNat

/-- Every attempt that does not wait can take what it reports from the buffer: one byte of at least 6, or the
`total` bytes, 6 to 260, of the frame (R93, R157, R163). -/
def Obligations.ScanProgress : Prop :=
  ∀ (buf : List Byte),
    (scan1 buf = .drop1 → 6 ≤ buf.length) ∧
    (∀ c p t, scan1 buf = .frame c p t →
      6 ≤ t ∧ t ≤ 260 ∧ t ≤ buf.length ∧ t = 6 + p.length ∧ t = 5 + (buf.getD 2 0#8).toNat ∧
      c = buf.getD 3 0#8 ∧ p = (buf.take (t - 2)).drop 4 ∧
      crc16 (buf.take (t - 2)) = le16 (buf.getD (t - 2) 0#8) (buf.getD (t - 1) 0#8))

/-- The pieces in which bytes arrive do not show: scanning a first piece, then what it leaves followed by the
second, reports what scanning the whole does (R164, R166). -/
def Obligations.ScanAllChunked : Prop :=
  ∀ a b : List Byte,
    scanAll (a ++ b) =
      ((scanAll a).1 ++ (scanAll ((scanAll a).2 ++ b)).1, (scanAll ((scanAll a).2 ++ b)).2)

/-- Garbage none of whose positions is accepted is dropped byte by byte, and the frame behind it is delivered
unchanged (R168). -/
def Obligations.GarbageThenFrame : Prop :=
  ∀ (g r : List Byte) (cmd : Byte) (p : List Byte), p.length ≤ 254 →
    (∀ i < g.length, scan1 ((g ++ frame cmd p ++ r).drop i) = .drop1) →
    scanAll (g ++ frame cmd p ++ r) =
      (g.map ScanOutcome.dropped ++ .frame cmd p :: (scanAll r).1, (scanAll r).2)

/-! The answer decoder (spec/42_decode.md). A DEC row run on its own does what the engine's step does with the frame
once it has left the buffer (the model's reading, log entry 4). -/

/-- The only rejections are the five length checks (R194, R195 (c)), and every other frame decodes to a tag of
the closed set (R195 (a)). -/
def Obligations.DecodeErrorsExactly : Prop :=
  ∀ (cmd : Byte) (p : List Byte),
    (decodeAnswer cmd p = none ↔
      (cmd = 0x95#8 ∧ p.length ≠ 14) ∨
      ((cmd = 0x94#8 ∨ cmd = 0x93#8 ∨ cmd = 0xB0#8) ∧ p.length ≠ 4) ∨
      (cmd = 0x88#8 ∧ p.length ≠ 1)) ∧
    decodeAnswer cmd p ≠ some .none

/-- DEC.STATE with 14 bytes, DEC.POSDONE, DEC.POSOBST and DEC.MOVEACC with 4, DEC.CMDERR with 1 complete and
publish the payload under their command code (R182 to R185, R189, R220, R221). -/
def Obligations.FixedLengthAnswersPublish : Prop :=
  ∀ (pre : BitVec 16) (p : List Byte) (s : State), Inv s →
    (p.length = 14 → ∃ t, exec (.decState pre p) s = .next t ∧ Published s t 0x95#8 .state p) ∧
    (p.length = 4 → ∃ t, exec (.decPosdone pre p) s = .next t ∧ Published s t 0x94#8 .posdone p) ∧
    (p.length = 4 → ∃ t, exec (.decPosobst pre p) s = .next t ∧ Published s t 0x93#8 .posobst p) ∧
    (p.length = 4 → ∃ t, exec (.decMoveacc pre p) s = .next t ∧ Published s t 0xB0#8 .moveacc p) ∧
    (p.length = 1 → ∃ t, exec (.decCmderr pre p) s = .next t ∧ Published s t 0x88#8 .cmderr p)

/-- The same five with any other length raise DECERR, record the command code, and change nothing else (R194). -/
def Obligations.WrongLengthRaisesDecerr : Prop :=
  ∀ (pre : BitVec 16) (p : List Byte) (s : State),
    (p.length ≠ 14 → exec (.decState pre p) s =
      .next { s with evt := s.evt ||| 0x004#9, log := { s.log with lastDecerr := 0x95#8 } }) ∧
    (p.length ≠ 4 → exec (.decPosdone pre p) s =
      .next { s with evt := s.evt ||| 0x004#9, log := { s.log with lastDecerr := 0x94#8 } }) ∧
    (p.length ≠ 4 → exec (.decPosobst pre p) s =
      .next { s with evt := s.evt ||| 0x004#9, log := { s.log with lastDecerr := 0x93#8 } }) ∧
    (p.length ≠ 4 → exec (.decMoveacc pre p) s =
      .next { s with evt := s.evt ||| 0x004#9, log := { s.log with lastDecerr := 0xB0#8 } }) ∧
    (p.length ≠ 1 → exec (.decCmderr pre p) s =
      .next { s with evt := s.evt ||| 0x004#9, log := { s.log with lastDecerr := 0x88#8 } })

/-- DEC.REFACK, DEC.STOPACK, DEC.GRIPACK, DEC.ERRACK, DEC.CONFIG and DEC.CMDINFO complete and publish every
payload a frame can carry (R186 to R188, R190 to R192, R220). -/
def Obligations.AnyLengthAnswersPublish : Prop :=
  ∀ (pre : BitVec 16) (p : List Byte) (s : State), Inv s → p.length ≤ 254 →
    (∃ t, exec (.decRefack pre p) s = .next t ∧ Published s t 0x92#8 .refack p) ∧
    (∃ t, exec (.decStopack pre p) s = .next t ∧ Published s t 0x91#8 .stopack p) ∧
    (∃ t, exec (.decGripack pre p) s = .next t ∧ Published s t 0xB7#8 .gripack p) ∧
    (∃ t, exec (.decErrack pre p) s = .next t ∧ Published s t 0x8B#8 .errack p) ∧
    (∃ t, exec (.decConfig pre p) s = .next t ∧ Published s t 0x80#8 .config p) ∧
    (∃ t, exec (.decCmdinfo pre p) s = .next t ∧ Published s t 0x8A#8 .cmdinfo p)

/-- Every command code outside the eleven rows, 0x90 among them, completes as RAW in its own slot, with UNSUP
and LAST_UNSUP (R193, R221). -/
def Obligations.UnlistedCodesPublishRaw : Prop :=
  ∀ (pre : BitVec 16) (cmd : Byte) (p : List Byte) (s : State), Inv s → p.length ≤ 254 →
    cmd ∉ [0x95#8, 0x94#8, 0x93#8, 0xB0#8, 0x92#8, 0x91#8, 0xB7#8, 0x88#8, 0x8B#8, 0x80#8, 0x8A#8] →
    ∃ t, exec (.decRaw pre cmd p) s = .next t ∧ Published s t cmd .raw p

/-- PUBLISH stores the answer in the slot of its command code and raises the events of its variant (R220, R221);
the other slots and the rest of the state stay (R231). -/
def Obligations.PublishStores : Prop :=
  ∀ (cmd : Byte) (tag : Tag) (p : List Byte) (s : State), Inv s → p.length ≤ 254 →
    ∃ t, exec (.publish cmd tag p) s = .next t ∧ Published s t cmd tag p

/-! The transmit side (spec/40_encode.md). -/

/-- FRAME completes: the whole frame of R130 enters TXQ in one step, and nothing else changes (FRAME as an operation
of its own is the model's reading, log entry 4). -/
def Obligations.FrameLoadsQueue : Prop :=
  ∀ (cmd : Byte) (p : List Byte) (s : State), p.length ≤ 254 →
    exec (.frame cmd p) s = .next { s with txq :=
      [0x05#8, 0x0C#8, BitVec.ofNat 8 (p.length + 1), cmd] ++ p ++
        [(crc16 ([0x05#8, 0x0C#8, BitVec.ofNat 8 (p.length + 1), cmd] ++ p)).extractLsb' 0 8,
         (crc16 ([0x05#8, 0x0C#8, BitVec.ofNat 8 (p.length + 1), cmd] ++ p)).extractLsb' 8 8] }

/-- ENCODE: one of the three refusals in their priority, or the frame of TX_CMD and TXP[0..n-1] enters TXQ; the
staging registers are never written (R131 to R135). -/
def Obligations.EncodeOutcomes : Prop :=
  ∀ (ign : BitVec 24) (s : State),
    exec (.encode ign) s = .next
      (if s.closed = true then { s with evt := s.evt ||| 0x100#9 }
       else if s.txq ≠ [] then { s with evt := s.evt ||| 0x080#9 }
       else if 254 < s.txPlen.toNat then { s with evt := s.evt ||| 0x040#9 }
       else { s with txq := frame s.txCmd ((List.range s.txPlen.toNat).map (readByte s.txp)) })

/-- TX_POP: `tx_valid` is 1 exactly while TXQ is not empty; then `tx_data` is the first byte, and it leaves for
the line (R136). -/
def Obligations.TxPopTakesFront : Prop :=
  ∀ s : State, (txValid s = true ↔ s.txq ≠ []) ∧
    ∀ b rest, s.txq = b :: rest → txData s = some b ∧
      exec .txPop s = .next { s with txq := rest, txwire := s.txwire ++ [b] }

/-! The receive side. -/

/-- RX_PUSH: `rx_ready` is 1 exactly when enabled, open and quiescent; then the byte is appended, and the buffer
has room for it (R150). -/
def Obligations.RxPushAppends : Prop :=
  ∀ (b : Byte) (s : State),
    (rxReady s = true ↔ s.rxEn = true ∧ s.closed = false ∧ scan1 s.rxbuf = .needMore) ∧
    (rxReady s = true → s.rxbuf.length < 260 ∧
      exec (.rxPush b) s = .next { s with rxbuf := s.rxbuf ++ [b] })

/-- The model's choice, log entry 5: an operation whose enabling condition fails (R136, R150, R160, R244) does not
happen, and the step leaves the state as it was. -/
def Obligations.DisabledStepsChangeNothing : Prop :=
  ∀ (b : Byte) (s : State),
    (s.rxEn = false ∨ s.closed = true ∨ scan1 s.rxbuf ≠ .needMore →
      exec (.rxPush b) s = .next s ∧ exec .rxClose s = .next s) ∧
    (s.txq = [] → exec .txPop s = .next s) ∧
    (scan1 s.rxbuf ≠ .drop1 → exec .engineStepDrop1 s = .next s) ∧
    ((∀ c p t, scan1 s.rxbuf ≠ .frame c p t) → exec .engineStepFrame s = .next s)

/-- ENGINE_STEP, outcome DROP1: exactly one byte leaves the front, CKSUM is raised, no slot and no LOG field
changes (R161). -/
def Obligations.EngineDropsOneByte : Prop :=
  ∀ (b : Byte) (rest : List Byte) (s : State), s.rxbuf = b :: rest → scan1 s.rxbuf = .drop1 →
    exec .engineStepDrop1 s = .next { s with rxbuf := rest, evt := s.evt ||| 0x002#9 }

/-- ENGINE_STEP, outcome FRAME: the `total` bytes leave the buffer, and in the same step the answer is published
or DECERR is raised with its command code (R162, R194, R220). -/
def Obligations.EngineFrameOutcomes : Prop :=
  ∀ (s : State) (cmd : Byte) (p : List Byte) (n : Nat), Inv s → scan1 s.rxbuf = .frame cmd p n →
    ∃ t, exec .engineStepFrame s = .next t ∧ t.rxbuf = s.rxbuf.drop n ∧
      (∀ tag, decodeAnswer cmd p = some tag → Published { s with rxbuf := s.rxbuf.drop n } t cmd tag p) ∧
      (decodeAnswer cmd p = none →
        t = { s with rxbuf := s.rxbuf.drop n, evt := s.evt ||| 0x004#9, log := { s.log with lastDecerr := cmd } })

/-- The engine runs the operation that the candidate at the front of RXBUF decodes to (R107 (a), R162). -/
def Obligations.EngineRunsDecodedFrame : Prop :=
  ∀ (s : State) (cmd : Byte) (p : List Byte) (n : Nat), scan1 s.rxbuf = .frame cmd p n →
    ∃ i t, decode (.frameRx (s.rxbuf.take n)) = .ok i ∧
      exec i { s with rxbuf := s.rxbuf.drop n } = .next t ∧ exec .engineStepFrame s = .next t

/-- RX_FLUSH: RXBUF is emptied and nothing else changes; STATUS then shows RX_LEN = 0 and RX_IDLE = 1 (R165). -/
def Obligations.RxFlushEmpties : Prop :=
  ∀ (ign : BitVec 24) (s : State), ∃ t, exec (.rxFlush ign) s = .next t ∧ t = { s with rxbuf := [] } ∧
    (regValue 0x002#12 t).extractLsb' 8 9 = 0#9 ∧ (regValue 0x002#12 t).getLsbD 2 = true

/-! The system operations (spec/44_system.md). -/

/-- CLOSE: an open block becomes closed with the CLOSED event; a closed one stays as it is; from this step on
rx_ready is 0 and ENCODE is refused (R243). -/
def Obligations.CloseMarksClosed : Prop :=
  ∀ (ign : BitVec 24) (s : State), ∃ t, exec (.close ign) s = .next t ∧
    t = (if s.closed = true then s else { s with closed := true, evt := s.evt ||| 0x020#9 }) ∧
    closedOut t = true ∧ rxReady t = false ∧
    ∀ g : BitVec 24, exec (.encode g) t = .next { t with evt := t.evt ||| 0x100#9 }

/-- RX_CLOSE: while enabled, open and quiescent, which is `rx_ready`, the block becomes closed with the CLOSED
event, and the bytes of an incomplete frame stay (R244). -/
def Obligations.LineCloseMarksClosed : Prop :=
  ∀ s : State, (rxReady s = true ↔ s.rxEn = true ∧ s.closed = false ∧ scan1 s.rxbuf = .needMore) ∧
    (rxReady s = true →
      s.rxbuf.length ≤ 259 ∧ exec .rxClose s = .next { s with closed := true, evt := s.evt ||| 0x020#9 })

/-- SOFT_RESET and HARD_RESET have the same effect, and after it every piece of state has its reset value and the
outputs are those of a reset block (R44, R290, R291). -/
def Obligations.ResetRestoresEverything : Prop :=
  ∀ (ign : BitVec 24) (s : State), ∃ t, exec .hardReset s = .next t ∧ exec (.softReset ign) s = .next t ∧
    t.rxbuf = [] ∧ t.txq = [] ∧ t.txCmd = 0#8 ∧ t.txPlen = 0#16 ∧ (∀ i, readByte t.txp i = 0#8) ∧
    t.rxEn = false ∧ t.closed = false ∧ t.evt = 0#9 ∧ t.ien = 0#9 ∧
    (∀ c, (slotAt t.slots c).seq = 0#32 ∧ (slotAt t.slots c).tag = .none ∧ (slotAt t.slots c).plen = 0#8 ∧
      ∀ i, readByte (slotAt t.slots c).data i = 0#8) ∧
    t.slotSel = 0#8 ∧ t.snap = slotAt t.slots 0#8 ∧
    t.log.lastPub = 0#8 ∧ t.log.lastUnsup = 0#8 ∧ t.log.lastDecerr = 0#8 ∧
    regValue 0x002#12 t = 0x00000004#32 ∧ irq t = false ∧ rxReady t = false ∧ txValid t = false

/-- The model's choice, log entry 2: a reset keeps what is not state of the block, the history of sent bytes, the
host's history and the pending stimuli (R290 allows it for TXWIRE; R293: the line's bytes are not discarded). -/
def Obligations.ResetKeepsHistories : Prop :=
  ∀ (ign : BitVec 24) (s t : State), (exec .hardReset s = .next t ∨ exec (.softReset ign) s = .next t) →
    t.txwire = s.txwire ∧ t.hostRd = s.hostRd ∧ t.inputs = s.inputs

/-- CTRL_WRITE and IEN_WRITE: RX_EN takes bit 0, IEN takes bits 8:0, nothing else changes, and the registers read
back what was written (R247). -/
def Obligations.EnablesAreWritten : Prop :=
  ∀ (v : Word) (s : State),
    (∃ t, exec (.ctrlWrite v) s = .next t ∧ t = { s with rxEn := v.getLsbD 0 } ∧
      regValue 0x000#12 t = v &&& 0x00000001#32) ∧
    (∃ t, exec (.ienWrite v) s = .next t ∧ t = { s with ien := t.ien } ∧
      (∀ k < 9, t.ien.getLsbD k = v.getLsbD k) ∧ regValue 0x004#12 t = v &&& 0x000001FF#32)

/-- EVT_CLEAR: bits written 1 are cleared, bits written 0 stay, nothing else changes (R246). -/
def Obligations.EvtClearClearsOnes : Prop :=
  ∀ (v : Word) (s : State), ∃ t, exec (.evtClear v) s = .next t ∧ t = { s with evt := t.evt } ∧
    ∀ k < 9, t.evt.getLsbD k = (s.evt.getLsbD k && !v.getLsbD k)

/-- SNAP_LATCH: the selected slot is copied whole, the slot is not changed, and SLOT_SEL and SNAP_SEQ read back
the selection and its sequence number (R224, R225). -/
def Obligations.SnapLatchCopies : Prop :=
  ∀ (v : Word) (s : State), ∃ t, exec (.snapLatch v) s = .next t ∧
    t = { s with slotSel := v.extractLsb' 0 8, snap := slotAt s.slots (v.extractLsb' 0 8) } ∧
    regValue 0x010#12 t = v &&& 0x000000FF#32 ∧
    regValue 0x011#12 t = (slotAt s.slots (v.extractLsb' 0 8)).seq

/-- REG_WRITE of a staging register: TX_CMD, TX_PLEN or TXP[i] takes the low bits of the value, every other
staging byte and everything else stays (R34, R240). -/
def Obligations.RegWriteStages : Prop :=
  ∀ (v : Word) (s : State), Memory.wf s.txp →
    exec (.regWrite 0x008#12 v) s = .next { s with txCmd := v.extractLsb' 0 8 } ∧
    exec (.regWrite 0x009#12 v) s = .next { s with txPlen := v.extractLsb' 0 16 } ∧
    ∀ i ≤ 253, ∃ t, exec (.regWrite (BitVec.ofNat 12 (0x100 + i)) v) s = .next t ∧
      t = { s with txp := t.txp } ∧ Memory.wf t.txp ∧
      ∀ j ≤ 253, regValue (BitVec.ofNat 12 (0x100 + j)) t =
        if j = i then v &&& 0x000000FF#32 else regValue (BitVec.ofNat 12 (0x100 + j)) s

/-- A register write does what the operation of its row does: the rows of CMDR and REGW are the special cases of
REG_WRITE (R107 (e), R240, R241). -/
def Obligations.RegWriteIsItsOperation : Prop :=
  ∀ (n : RegNum) (v : Word) (s : State), exec (.regWrite n v) s = exec (decodeWrite n v) s

/-- A write to a read-only or reserved register, and a reserved CMDR value, change nothing (R240, R241). -/
def Obligations.RegWriteIgnoredElsewhere : Prop :=
  ∀ (n : RegNum) (v : Word) (s : State),
    (n.toNat ∉ [0x000, 0x001, 0x003, 0x004, 0x008, 0x009, 0x010] ∧ ¬ (0x100 ≤ n.toNat ∧ n.toNat ≤ 0x1FD) ∨
      n.toNat = 0x001 ∧ (v.extractLsb' 0 8).toNat ∉ [1, 2, 3, 4]) →
    exec (.regWrite n v) s = .next s

/-- REG_READ completes for every number: the value goes to the host (the history of log entry 3) and no state of
the block changes (R67, R240). -/
def Obligations.RegReadReturnsRegister : Prop :=
  ∀ (n : RegNum) (s : State), ∃ t, exec (.regRead n) s = .next t ∧
    t.hostRd = s.hostRd ++ [regValue n s] ∧ t = { s with hostRd := t.hostRd } ∧
    ∀ m, regValue m t = regValue m s

/-- STATUS: each field at its place and every other bit 0 (R34, R242). -/
def Obligations.StatusRegisterFields : Prop :=
  ∀ s : State, s.rxbuf.length ≤ 260 → s.txq.length ≤ 260 →
    ((regValue 0x002#12 s).getLsbD 0 = true ↔ s.txq ≠ []) ∧
    (regValue 0x002#12 s).getLsbD 1 = s.closed ∧
    ((regValue 0x002#12 s).getLsbD 2 = true ↔ scan1 s.rxbuf = .needMore) ∧
    ((regValue 0x002#12 s).extractLsb' 8 9).toNat = s.rxbuf.length ∧
    ((regValue 0x002#12 s).extractLsb' 20 9).toNat = s.txq.length ∧
    ∀ k, (3 ≤ k ∧ k ≤ 7 ∨ 17 ≤ k ∧ k ≤ 19 ∨ 29 ≤ k) → (regValue 0x002#12 s).getLsbD k = false

/-- The other control and staging registers read as the register map says; CMDR and every reserved number read 0
(R34). -/
def Obligations.RegisterMapValues : Prop :=
  ∀ s : State,
    (regValue 0x000#12 s).toNat = s.rxEn.toNat ∧ regValue 0x001#12 s = 0#32 ∧
    (regValue 0x003#12 s).toNat = s.evt.toNat ∧ (regValue 0x004#12 s).toNat = s.ien.toNat ∧
    (regValue 0x005#12 s).toNat =
      s.log.lastPub.toNat + 256 * s.log.lastUnsup.toNat + 65536 * s.log.lastDecerr.toNat ∧
    (regValue 0x008#12 s).toNat = s.txCmd.toNat ∧ (regValue 0x009#12 s).toNat = s.txPlen.toNat ∧
    (regValue 0x010#12 s).toNat = s.slotSel.toNat ∧ regValue 0x011#12 s = s.snap.seq ∧
    (regValue 0x012#12 s).toNat = (tagCode s.snap.tag).toNat + 256 * s.snap.plen.toNat ∧
    (∀ i ≤ 253, (regValue (BitVec.ofNat 12 (0x100 + i)) s).toNat = (readByte s.txp i).toNat) ∧
    ∀ n : RegNum, n.toNat ∉ [0x000, 0x002, 0x003, 0x004, 0x005, 0x008, 0x009] →
      ¬ (0x010 ≤ n.toNat ∧ n.toNat ≤ 0x016) → ¬ (0x100 ≤ n.toNat ∧ n.toNat ≤ 0x1FD) →
      ¬ (0x200 ≤ n.toNat ∧ n.toNat ≤ 0x2FD) → regValue n s = 0#32

/-! The read window (spec/43_demux.md). -/

/-- SNAP_DATA[i] and SNAP_Fk read the latched payload where it has those bytes and 0 elsewhere; the tag is not
looked at (R226, R227). -/
def Obligations.SnapshotViews : Prop :=
  ∀ s : State,
    (∀ i ≤ 253, regValue (BitVec.ofNat 12 (0x200 + i)) s =
      if i < s.snap.plen.toNat then (readByte s.snap.data i).setWidth 32 else 0#32) ∧
    ∀ k ≤ 2, regValue (BitVec.ofNat 12 (0x013 + k)) s =
      if 4 * k + 4 ≤ s.snap.plen.toNat then
        le32 (readByte s.snap.data (4 * k)) (readByte s.snap.data (4 * k + 1))
          (readByte s.snap.data (4 * k + 2)) (readByte s.snap.data (4 * k + 3))
      else 0#32

/-- SNAP_ST by the tag, for every error table (R228; ERRTAB is a free value, log entry 8). -/
def Obligations.StatusViewByTag : Prop :=
  ∀ s : State,
    (s.snap.tag = .state →
      (regValue 0x016#12 s).extractLsb' 0 8 = readByte s.snap.data 12 ∧
      (regValue 0x016#12 s).extractLsb' 8 8 = readByte s.snap.data 13 ∧
      (regValue 0x016#12 s).extractLsb' 16 8 = Config.errtab (readByte s.snap.data 13)) ∧
    (s.snap.tag = .cmderr →
      (regValue 0x016#12 s).extractLsb' 0 8 = 0#8 ∧
      (regValue 0x016#12 s).extractLsb' 8 8 = readByte s.snap.data 0 ∧
      (regValue 0x016#12 s).extractLsb' 16 8 = Config.errtab (readByte s.snap.data 0)) ∧
    (s.snap.tag ≠ .state → s.snap.tag ≠ .cmderr → regValue 0x016#12 s = 0#32) ∧
    (regValue 0x016#12 s).extractLsb' 24 8 = 0#8

/-- The typed fields of an answer are what the register views read once it is published and latched: the floats of
R196 in SNAP_F0 to SNAP_F2, the bytes of R197 in SNAP_ST (R227, R228). -/
def Obligations.TypedFieldsReadBack : Prop :=
  ∀ (p : List Byte) (s : State), Inv s →
    (p.length = 14 → ∃ t u, exec (.publish 0x95#8 .state p) s = .next t ∧
      exec (.snapLatch 0x00000095#32) t = .next u ∧
      position .state p = some (regValue 0x013#12 u) ∧ velocity .state p = some (regValue 0x014#12 u) ∧
      current .state p = some (regValue 0x015#12 u) ∧
      statusByte .state p = some ((regValue 0x016#12 u).extractLsb' 0 8) ∧
      errorCode .state p = some ((regValue 0x016#12 u).extractLsb' 8 8) ∧
      errorCategory .state p = some ((regValue 0x016#12 u).extractLsb' 16 8)) ∧
    (p.length = 4 → ∀ r ∈ [(0x94#8, Tag.posdone), (0x93#8, Tag.posobst), (0xB0#8, Tag.moveacc)], ∃ t u,
      exec (.publish r.1 r.2 p) s = .next t ∧ exec (.snapLatch (r.1.setWidth 32)) t = .next u ∧
      (if r.2 = .moveacc then elapsedTime r.2 p else position r.2 p) = some (regValue 0x013#12 u)) ∧
    (p.length = 1 → ∃ t u, exec (.publish 0x88#8 .cmderr p) s = .next t ∧
      exec (.snapLatch 0x00000088#32) t = .next u ∧
      errorCode .cmderr p = some ((regValue 0x016#12 u).extractLsb' 8 8) ∧
      errorCategory .cmderr p = some ((regValue 0x016#12 u).extractLsb' 16 8) ∧
      message .cmderr p = some (errstr ((regValue 0x016#12 u).extractLsb' 16 8)))

/-- Decoding loses nothing: a published payload, latched, reads back byte for byte, and 0 behind its end, with its
length, its tag and the next sequence number (R195 (d), R224 to R226). -/
def Obligations.PublishThenLatchReadsBack : Prop :=
  ∀ (cmd : Byte) (tag : Tag) (p : List Byte) (v : Word) (s : State), Inv s → p.length ≤ 254 →
    v.extractLsb' 0 8 = cmd →
    ∃ t u, exec (.publish cmd tag p) s = .next t ∧ exec (.snapLatch v) t = .next u ∧
      regValue 0x011#12 u = (slotAt s.slots cmd).seq + 1#32 ∧
      (regValue 0x012#12 u).toNat = (tagCode tag).toNat + 256 * p.length ∧
      ∀ i ≤ 253, regValue (BitVec.ofNat 12 (0x200 + i)) u = (p.getD i 0#8).setWidth 32

/-- The sequence number of a slot counts the publishes to it modulo 2^32, so a host that captured it before them
gets its answer whatever the closed flag and its timer say, and a host with none since its capture gets none
(R229, R232, R234 (a), (c), (e)). -/
def Obligations.WaitSeesEveryPublish : Prop :=
  ∀ (outs : List ScanOutcome) (c : Byte) (s : State) (status : Word) (late : Bool), Inv s →
    (slotAt (applyOutcomes outs s).slots c).seq =
      (slotAt s.slots c).seq + BitVec.ofNat 32 (publishCount c outs) ∧
    (0 < publishCount c outs → publishCount c outs < 2 ^ 32 →
      waitPoll (slotAt s.slots c).seq (slotAt (applyOutcomes outs s).slots c).seq status late = .answer) ∧
    (publishCount c outs = 0 →
      waitPoll (slotAt s.slots c).seq (slotAt (applyOutcomes outs s).slots c).seq status late ≠ .answer)

/-! Events (spec/60_exceptions.md). -/

/-- `irq` is 1 exactly when some flag is set and enabled (R270). -/
def Obligations.IrqLevel : Prop :=
  ∀ s : State, irq s = true ↔ ∃ k < 9, s.evt.getLsbD k = true ∧ s.ien.getLsbD k = true

/-- One step clears flags or raises one of the sets of R272. -/
def Obligations.EventsOfOneStep : Prop :=
  ∀ s t : State, step s = .next t →
    (∃ m, t.evt = s.evt &&& m) ∨
    ∃ r ∈ [0x001#9, 0x002#9, 0x004#9, 0x009#9, 0x011#9, 0x020#9, 0x040#9, 0x080#9, 0x100#9],
      t.evt = s.evt ||| r

/-! The machine. -/

/-- A step runs the decoded operation. The order between agents is the model's choice, log entry 1: the first
stimulus, while the receive line is not held; while it is held, the engine's step, and when the engine has none
the first stimulus of another agent; without a stimulus, the engine's step or nothing. -/
def Obligations.StepRunsDecodedStimulus : Prop :=
  ∀ s : State,
    (∀ i x rest, i.wellFormed = true → encode i = .port x → s.inputs = x :: rest →
      (fromLineRx x = false ∨ rxReady s = true) → step s = exec i { s with inputs := rest }) ∧
    (∀ i x rest held h, i.wellFormed = true → encode i = .port x → s.inputs = h :: held ++ x :: rest →
      (∀ y ∈ h :: held, fromLineRx y = true) → fromLineRx x = false → rxReady s = false →
      scan1 s.rxbuf = .needMore → step s = exec i { s with inputs := h :: held ++ rest }) ∧
    ((∀ y ∈ s.inputs.head?, fromLineRx y = true) →
      (scan1 s.rxbuf = .drop1 → step s = exec .engineStepDrop1 s) ∧
      (∀ c p n, scan1 s.rxbuf = .frame c p n → step s = exec .engineStepFrame s)) ∧
    (s.inputs = [] → scan1 s.rxbuf = .needMore → step s = .next s)

/-- No step ends in a fault or a refusal: "No event stops, stalls or resets anything" (R260). -/
def Obligations.StepNeverStops : Prop := ∀ s : State, ∃ t, step s = .next t

/-- The state after reset meets the invariants of R45. -/
def Obligations.ResetMeetsInvariant : Prop := Inv State.reset

/-- Every step from a state that meets the invariants of R45 gives a state that meets them: RX_LEN at most 260,
TXQ empty or a suffix of one frame, every slot empty or an answer of its code's variant and length, and every
space in canonical form. -/
def Obligations.StepKeepsInvariant : Prop :=
  ∀ s t : State, Inv s → step s = .next t → Inv t

/-- The bytes on the wire are whole frames and at most one proper prefix, provided no reset happens while TXQ
is not empty (R137 (a)). -/
def Obligations.StepKeepsWireWhole : Prop :=
  ∀ (s s' t : State) (i : Instr), nextInstr s = some (i, s') → (isReset i = true → s.txq = []) →
    WireWhole s → step s = .next t → WireWhole t

/-- "once set it stays set until reset" (R28): no other operation leaves the closed state. -/
def Obligations.ClosedStaysUntilReset : Prop :=
  ∀ s t : State, s.closed = true → step s = .next t →
    t.closed = true ∨ ∃ i s', nextInstr s = some (i, s') ∧ isReset i = true

/-- While the block is closed no byte enters RXBUF and no frame enters TXQ; both only lose bytes at the front
(R28, R132, R150). -/
def Obligations.ClosedTakesNothing : Prop :=
  ∀ s t : State, s.closed = true → step s = .next t → t.rxbuf <:+ s.rxbuf ∧ t.txq <:+ s.txq

/-- Only a reset and the engine's publish of a frame at the front of RXBUF change the slot table (R30, R220,
R231). -/
def Obligations.SlotsChangeOnlyByPublish : Prop :=
  ∀ s t : State, Inv s → step s = .next t →
    t.slots = s.slots ∨ (∃ i s', nextInstr s = some (i, s') ∧ isReset i = true) ∨
    ∃ cmd p n tag, scan1 s.rxbuf = .frame cmd p n ∧ decodeAnswer cmd p = some tag ∧
      t.rxbuf = s.rxbuf.drop n ∧ Published { s with rxbuf := t.rxbuf, inputs := t.inputs } t cmd tag p

/-- Transmit does not depend on receive: ENCODE and TX_POP give the same queue and the same bytes on the wire
whatever the receive side holds, and they change none of it (R72, R138). -/
def Obligations.TransmitIgnoresReceive : Prop :=
  ∀ (ign : BitVec 24) (s : State) (en : Bool) (buf : List Byte) (table : SlotTable) (r : Slot) (l : Log),
    ∀ i ∈ [Instr.encode ign, Instr.txPop], ∃ t u,
      exec i s = .next t ∧
      exec i { s with rxEn := en, rxbuf := buf, slots := table, snap := r, log := l } = .next u ∧
      u.txq = t.txq ∧ u.txwire = t.txwire ∧ u.evt = t.evt ∧
      t.rxEn = s.rxEn ∧ t.rxbuf = s.rxbuf ∧ t.slots = s.slots ∧ t.snap = s.snap ∧ t.log = s.log

/-- A byte stream delivered by the line to an enabled, open block is scanned to quiescence: after enough steps the
outcomes of the engine, in order, are those of `scan_all` on what the buffer held followed by the stream, and
RXBUF is what `scan_all` leaves (R71, R163, R164). That the engine moves while the line is held or no stimulus is
left is the model's choice (log entry 1), in the place of the fairness that the spec assumes (log entry 11). -/
def Obligations.LineDeliversStream : Prop :=
  ∀ (s : State) (bytes : List Byte), s.rxEn = true → s.closed = false → s.inputs = rxLine bytes →
    Host.Core.run Sys2Proof.core (s.rxbuf.length + 2 * bytes.length) s =
      .next { applyOutcomes (scanAll (s.rxbuf ++ bytes)).1 s with
        rxbuf := (scanAll (s.rxbuf ++ bytes)).2, inputs := [] }

/-- A frame between two newlines is examined on its own arrival exactly when it has 15 bytes or more; a shorter
one stalls (R300, R301). -/
def Obligations.NewlineStall : Prop :=
  ∀ (cmd : Byte) (p : List Byte), p.length ≤ 254 →
    (scan1 (0x0A#8 :: frame cmd p ++ [0x0A#8]) = .needMore ↔ (frame cmd p).length < 15)
end

