-- ==== Sys2Proof/Laws/Wire.lean ====
section
/-! SUPPORT. The fields of a candidate built by R95, read back by the functions of R103. -/

namespace Sys2Proof.Machine

@[simp] theorem crcFrom_nil (c : BitVec 16) : crcFrom c [] = c := rfl

@[simp] theorem crcFrom_cons (c : BitVec 16) (b : Byte) (s : List Byte) :
    crcFrom c (b :: s) = crcFrom (crcByte c b) s := rfl

theorem crcFrom_append (c : BitVec 16) (s t : List Byte) :
    crcFrom c (s ++ t) = crcFrom (crcFrom c s) t := List.foldl_append

theorem crc16_append (s t : List Byte) : crc16 (s ++ t) = crcFrom (crc16 s) t := crcFrom_append _ s t

@[simp] theorem length_trailer (c : BitVec 16) : (trailer c).length = 2 := rfl

@[simp] theorem le16_trailer (c : BitVec 16) : le16 (c.extractLsb' 0 8) (c.extractLsb' 8 8) = c := by
  refine BitVec.eq_of_getLsbD_eq fun i hi => ?_
  rw [le16, BitVec.getLsbD_append]
  by_cases h : i < 8
  · simp [h]
  · have : 8 + (i - 8) = i := by omega
    have : i - 8 < 8 := by omega
    simp_all

@[simp] theorem length_frameBody (pre : BitVec 16) (cmd : Byte) (p : List Byte) :
    (frameBody pre cmd p).length = p.length + 4 := by simp [frameBody]

@[simp] theorem length_candidateOf (pre : BitVec 16) (cmd : Byte) (p : List Byte) :
    (candidateOf pre cmd p).length = p.length + 6 := by simp [candidateOf, withTrailer]

@[simp] theorem length_frame (cmd : Byte) (p : List Byte) : (frame cmd p).length = p.length + 6 := by
  simp [frame]

/-- The bytes of a candidate, one by one at the front. -/
theorem candidateOf_eq (pre : BitVec 16) (cmd : Byte) (p : List Byte) :
    candidateOf pre cmd p = pre.extractLsb' 8 8 :: pre.extractLsb' 0 8 :: BitVec.ofNat 8 (p.length + 1) ::
      cmd :: (p ++ trailer (crc16 (frameBody pre cmd p))) := rfl

theorem candidateOf_append_eq (pre : BitVec 16) (cmd : Byte) (p rest : List Byte) :
    candidateOf pre cmd p ++ rest = pre.extractLsb' 8 8 :: pre.extractLsb' 0 8 ::
      BitVec.ofNat 8 (p.length + 1) :: cmd ::
        (p ++ (trailer (crc16 (frameBody pre cmd p)) ++ rest)) := by
  simp [candidateOf_eq]

/-- The length byte counts the command byte and the payload (R91). -/
theorem lenByte_candidateOf_append {pre : BitVec 16} {cmd : Byte} {p : List Byte} (rest : List Byte)
    (h : p.length ≤ Config.maxPayload) : lenByte (candidateOf pre cmd p ++ rest) = p.length + 1 := by
  unfold Config.maxPayload at h
  rw [candidateOf_append_eq]
  simp only [lenByte, List.getD_cons_succ, List.getD_cons_zero, BitVec.toNat_ofNat]
  omega

theorem lenByte_candidateOf {pre : BitVec 16} {cmd : Byte} {p : List Byte} (h : p.length ≤ Config.maxPayload) :
    lenByte (candidateOf pre cmd p) = p.length + 1 := by
  simpa using lenByte_candidateOf_append (pre := pre) (cmd := cmd) [] h

/-- The total length of a frame (R93). -/
theorem total_candidateOf_append {pre : BitVec 16} {cmd : Byte} {p : List Byte} (rest : List Byte)
    (h : p.length ≤ Config.maxPayload) : total (candidateOf pre cmd p ++ rest) = p.length + 6 := by
  rw [total, lenByte_candidateOf_append rest h]
  omega

theorem total_candidateOf {pre : BitVec 16} {cmd : Byte} {p : List Byte} (h : p.length ≤ Config.maxPayload) :
    total (candidateOf pre cmd p) = p.length + 6 := by
  simpa using total_candidateOf_append (pre := pre) (cmd := cmd) [] h

@[simp] theorem cmdOf_candidateOf (pre : BitVec 16) (cmd : Byte) (p : List Byte) :
    cmdOf (candidateOf pre cmd p) = cmd := rfl

@[simp] theorem preOf_candidateOf (pre : BitVec 16) (cmd : Byte) (p : List Byte) :
    preOf (candidateOf pre cmd p) = pre := by
  rw [candidateOf_eq]
  simp only [preOf, List.getD_cons_zero, List.getD_cons_succ]
  exact le16_trailer pre

/-- The covered bytes of a candidate are its body (R95). -/
theorem take_candidateOf (pre : BitVec 16) (cmd : Byte) (p : List Byte) :
    (candidateOf pre cmd p).take (p.length + 4) = frameBody pre cmd p := by
  rw [candidateOf, withTrailer, ← length_frameBody pre cmd p, List.take_left]

theorem payloadOf_candidateOf {pre : BitVec 16} {cmd : Byte} {p : List Byte}
    (h : p.length ≤ Config.maxPayload) : payloadOf (candidateOf pre cmd p) = p := by
  rw [payloadOf, total_candidateOf h, show p.length + 6 - 2 = p.length + 4 by omega, take_candidateOf]
  rfl

/-- The trailer of a candidate is its checksum (R95). -/
theorem receivedCrc_candidateOf {pre : BitVec 16} {cmd : Byte} {p : List Byte} :
    receivedCrc (candidateOf pre cmd p) (p.length + 6) = crc16 (frameBody pre cmd p) := by
  rw [receivedCrc, candidateOf_eq]
  simp only [show p.length + 6 - 2 = p.length + 4 by omega, show p.length + 6 - 1 = p.length + 1 + 4 by omega,
    List.getD_cons_succ]
  rw [List.getD_append_right _ _ _ _ le_rfl, List.getD_append_right _ _ _ _ (by omega)]
  simp [trailer]

/-- A candidate built by R95 is valid (R98). -/
theorem frameValid_candidateOf {pre : BitVec 16} {cmd : Byte} {p : List Byte}
    (h : p.length ≤ Config.maxPayload) : frameValid (candidateOf pre cmd p) = true := by
  rw [frameValid, total_candidateOf h, receivedCrc_candidateOf, show p.length + 6 - 2 = p.length + 4 by omega,
    take_candidateOf]
  simp

/-- Nothing keeps it from being one valid candidate. -/
theorem frameFault_candidateOf {pre : BitVec 16} {cmd : Byte} {p : List Byte}
    (h : p.length ≤ Config.maxPayload) : frameFault (candidateOf pre cmd p) = none := by
  rw [frameFault, lenByte_candidateOf h, total_candidateOf h, frameValid_candidateOf h]
  simp [Config.minFrame]

/-- The header word of a candidate (R107 (a)). -/
theorem headerWord_candidateOf (pre : BitVec 16) (cmd : Byte) (p : List Byte) :
    headerWord (candidateOf pre cmd p) =
      pre.extractLsb' 8 8 ++ pre.extractLsb' 0 8 ++ BitVec.ofNat 8 (p.length + 1) ++ cmd := rfl

end Sys2Proof.Machine
end

