-- ==== Sys2Proof/Laws/Scan.lean ====
section
/-! SUPPORT. Everything one attempt of the scanner can answer, and the candidate behind a frame. -/

namespace Sys2Proof.Machine

/-- A byte list of known length, position by position. -/
theorem list_ext_getD {a b : List Byte} (hl : a.length = b.length)
    (h : ∀ i < a.length, a.getD i 0#8 = b.getD i 0#8) : a = b := by
  refine List.ext_getElem hl fun i ha hb => ?_
  have := h i ha
  rwa [List.getD_eq_getElem _ _ ha, List.getD_eq_getElem _ _ hb] at this

theorem getD_drop (l : List Byte) (n i : Nat) : (l.drop n).getD i 0#8 = l.getD (n + i) 0#8 := by
  simp [List.getD_eq_getElem?_getD]

theorem getD_take (l : List Byte) {n i : Nat} (h : i < n) : (l.take n).getD i 0#8 = l.getD i 0#8 := by
  simp [List.getD_eq_getElem?_getD, h]

@[simp] theorem lenByte_take (l : List Byte) {n : Nat} (h : 3 ≤ n) : lenByte (l.take n) = lenByte l := by
  rw [lenByte, getD_take l (by omega), lenByte]

@[simp] theorem lenByte_append (l r : List Byte) (h : 3 ≤ l.length) : lenByte (l ++ r) = lenByte l := by
  rw [lenByte, List.getD_append _ _ _ _ (by omega), lenByte]

theorem lenByte_lt (l : List Byte) : lenByte l < 256 := (l.getD 2 0#8).isLt

/-- `total` lies between 5 and 260 (R93). -/
theorem total_bounds (l : List Byte) : 5 ≤ total l ∧ total l ≤ 260 := by
  have := lenByte_lt l
  unfold total
  omega

@[simp] theorem total_take (l : List Byte) {n : Nat} (h : 3 ≤ n) : total (l.take n) = total l := by
  rw [total, lenByte_take l h, total]

@[simp] theorem total_append (l r : List Byte) (h : 3 ≤ l.length) : total (l ++ r) = total l := by
  rw [total, lenByte_append l r h, total]

/-- The low byte of two bytes put together. -/
theorem append_low (hi lo : Byte) : BitVec.extractLsb' 0 8 (hi ++ lo : BitVec 16) = lo := by
  refine BitVec.eq_of_getLsbD_eq fun i h => ?_
  rw [BitVec.getLsbD_extractLsb', BitVec.getLsbD_append]
  simp [h]

/-- The high byte of two bytes put together. -/
theorem append_high (hi lo : Byte) : BitVec.extractLsb' 8 8 (hi ++ lo : BitVec 16) = hi := by
  refine BitVec.eq_of_getLsbD_eq fun i h => ?_
  rw [BitVec.getLsbD_extractLsb', BitVec.getLsbD_append]
  simp [h]

/-- The two bytes of a 16-bit value put together by `le16`. -/
theorem trailer_le16 (lo hi : Byte) : trailer (le16 lo hi) = [lo, hi] := by
  rw [trailer, le16, append_low, append_high]

/-- The preamble bytes put together by `preOf`. -/
theorem preOf_bytes (l : List Byte) :
    (preOf l).extractLsb' 8 8 = l.getD 0 0#8 ∧ (preOf l).extractLsb' 0 8 = l.getD 1 0#8 :=
  ⟨append_high _ _, append_low _ _⟩

/-- The payload of a whole candidate has `LEN - 1` bytes (R103 (d)). -/
theorem length_payloadOf {cand : List Byte} (hl : cand.length = total cand) :
    (payloadOf cand).length = lenByte cand - 1 := by
  have := total_bounds cand
  have ht : total cand = 5 + lenByte cand := rfl
  simp only [payloadOf, List.length_drop, List.length_take]
  omega

/-- A valid candidate is the encoding of its own fields: no byte of it is lost (R95, R98, R103). -/
theorem candidate_eq {cand : List Byte} (hl : cand.length = total cand) (h0 : lenByte cand ≠ 0)
    (hv : frameValid cand = true) :
    cand = candidateOf (preOf cand) (cmdOf cand) (payloadOf cand) := by
  have ht : total cand = 5 + lenByte cand := rfl
  have hp := length_payloadOf hl
  have hlt := lenByte_lt cand
  have hbody : frameBody (preOf cand) (cmdOf cand) (payloadOf cand) = cand.take (total cand - 2) := by
    refine list_ext_getD (by simp [hp]; omega) fun i hi => ?_
    rw [length_frameBody, hp] at hi
    rw [getD_take _ (by omega), frameBody]
    rcases i with _ | _ | _ | _ | i
    · simpa using (preOf_bytes cand).1
    · simpa using (preOf_bytes cand).2
    · simp only [List.getD_cons_succ, List.getD_cons_zero, hp]
      refine BitVec.eq_of_toNat_eq ?_
      rw [BitVec.toNat_ofNat, show lenByte cand - 1 + 1 = lenByte cand by omega, Nat.mod_eq_of_lt hlt]
      rfl
    · rfl
    · simp only [List.getD_cons_succ]
      rw [payloadOf, getD_drop, getD_take _ (by omega)]
      congr 1
      omega
  rw [candidateOf, withTrailer, hbody]
  have hc : receivedCrc cand (total cand) = crc16 (cand.take (total cand - 2)) := by
    simpa [frameValid] using hv
  rw [← hc, receivedCrc, trailer_le16]
  refine list_ext_getD (by simp; omega) fun i hi => ?_
  by_cases h1 : i < total cand - 2
  · rw [List.getD_append _ _ _ _ (by simp; omega), getD_take _ h1]
  · rw [List.getD_append_right _ _ _ _ (by simp; omega)]
    rcases Nat.lt_or_ge i (total cand - 1) with h2 | h2
    · rw [show i = total cand - 2 by omega]
      simp [show min (total cand - 2) cand.length = total cand - 2 by omega]
    · rw [show i = total cand - 1 by omega]
      simp [show min (total cand - 2) cand.length = total cand - 2 by omega,
        show total cand - 1 - (total cand - 2) = 1 by omega]

/-- Everything one attempt can answer (R151 to R158). -/
theorem scan1_cases (buf : List Byte) :
    (scan1 buf = .needMore ∧ (buf.length < 6 ∨ buf.length < total buf)) ∨
    (6 ≤ buf.length ∧ total buf ≤ buf.length ∧
      ((scan1 buf = .drop1 ∧ (lenByte buf = 0 ∨ frameValid (buf.take (total buf)) = false)) ∨
       (scan1 buf = .frame (cmdOf (buf.take (total buf))) (payloadOf (buf.take (total buf))) (total buf) ∧
        lenByte buf ≠ 0 ∧ frameValid (buf.take (total buf)) = true))) := by
  unfold scan1 Config.minFrame
  split
  · exact .inl ⟨rfl, .inl ‹_›⟩
  · split
    · exact .inl ⟨rfl, .inr ‹_›⟩
    · refine .inr ⟨by omega, by omega, ?_⟩
      split
      · exact .inl ⟨rfl, .inl ‹_›⟩
      · dsimp only
        split
        · exact .inr ⟨rfl, ‹_›, ‹_›⟩
        · exact .inl ⟨rfl, .inr (by simp_all)⟩

/-- What a frame found at the front stands for: the candidate is the encoding of its command and payload. -/
theorem scan1_frame {buf : List Byte} {c : Byte} {p : List Byte} {t : Nat} (h : scan1 buf = .frame c p t) :
    t = total buf ∧ t ≤ buf.length ∧ p.length + 6 = t ∧ p.length ≤ Config.maxPayload ∧
      buf.take t = candidateOf (preOf (buf.take t)) c p := by
  rcases scan1_cases buf with ⟨h', -⟩ | ⟨h6, htot, ⟨h', -⟩ | ⟨h', h0, hv⟩⟩
  · simp [h] at h'
  · simp [h] at h'
  · rw [h] at h'
    obtain ⟨rfl, rfl, rfl⟩ := Scan.frame.inj h'
    have hb := total_bounds buf
    have hlt := lenByte_lt buf
    have ht : total buf = 5 + lenByte buf := rfl
    have hl : (buf.take (total buf)).length = total (buf.take (total buf)) := by
      rw [total_take _ (by omega), List.length_take]; omega
    have hlen := length_payloadOf hl
    rw [lenByte_take _ (by omega)] at hlen
    refine ⟨rfl, htot, by omega, by unfold Config.maxPayload; omega, ?_⟩
    exact candidate_eq hl (by rwa [lenByte_take _ (by omega)]) hv

/-- A quiescent buffer is one short of 260 bytes at most (R45 (b)). -/
theorem length_of_needMore {buf : List Byte} (h : scan1 buf = .needMore) : buf.length ≤ 259 := by
  have := total_bounds buf
  rcases scan1_cases buf with ⟨-, h'⟩ | ⟨-, -, ⟨h', -⟩ | ⟨h', -⟩⟩
  · omega
  · simp [h] at h'
  · simp [h] at h'

/-- A drop takes a byte of at least 6 (R161). -/
theorem length_of_drop1 {buf : List Byte} (h : scan1 buf = .drop1) : 6 ≤ buf.length := by
  rcases scan1_cases buf with ⟨h', -⟩ | ⟨h6, -⟩
  · simp [h] at h'
  · exact h6

end Sys2Proof.Machine
end

