-- ==== Sys2Proof/Laws/Sparse.lean ====
section
/-! SUPPORT. What the byte-indexed spaces and the slot table do: a read after a write, every other place
unchanged, and the canonical form kept by every write. -/

namespace Sys2Proof.Machine

variable {α : Type} {d : α}

/-- A key below every listed key reads the default. -/
theorem sparseGet_of_lt {m : List (Nat × α)} {k : Nat} (h : ∀ x ∈ m, k < x.1) : sparseGet d m k = d := by
  induction m with
  | nil => rfl
  | cons x rest ih =>
    have := h x (by simp)
    rw [sparseGet, if_neg (by omega)]
    exact ih fun y hy => h y (by simp [hy])

/-- The rest of a rising table lies above its first key. -/
theorem rising_tail {x : Nat × α} {m : List (Nat × α)} {k : Nat}
    (hm : (x :: m).Pairwise (fun a b => a.1 < b.1)) (hk : k ≤ x.1) : ∀ y ∈ m, k < y.1 := by
  intro y hy
  have := (List.pairwise_cons.mp hm).1 y hy
  omega

variable [DecidableEq α]

/-- A read after a write (all cases). -/
theorem sparseGet_sparseSet {m : List (Nat × α)} (hm : m.Pairwise (fun x y => x.1 < y.1)) (k j : Nat) (v : α) :
    sparseGet d (sparseSet d m k v) j = if j = k then v else sparseGet d m j := by
  induction m with
  | nil =>
    by_cases hv : v = d <;> by_cases hj : j = k <;> (simp [sparseSet, sparseGet, hv, hj]; try aesop)
  | cons x rest ih =>
    obtain ⟨i, y⟩ := x
    have ih := ih (List.pairwise_cons.mp hm).2
    have habove : k ≤ i → sparseGet d rest k = d := fun h => sparseGet_of_lt (rising_tail hm h)
    by_cases h1 : k < i
    · have hne : ¬ i = k := by omega
      by_cases hv : v = d <;> by_cases hj : j = k <;>
        simp [sparseSet, sparseGet, h1, hv, hj, hne, habove h1.le, eq_comm (a := k)]
    · by_cases h2 : k = i
      · subst h2
        by_cases hv : v = d <;> by_cases hj : j = k <;>
          simp [sparseSet, sparseGet, hv, hj, habove le_rfl, eq_comm (a := k)]
      · by_cases hj : i = j
        · subst hj
          simp [sparseSet, sparseGet, h1, h2, show ¬ i = k by omega]
        · simp [sparseSet, sparseGet, h1, h2, hj, ih]

/-- Which entries a write can leave. -/
theorem mem_sparseSet {m : List (Nat × α)} {k : Nat} {v : α} {x : Nat × α} (h : x ∈ sparseSet d m k v) :
    x ∈ m ∨ (x = (k, v) ∧ v ≠ d) := by
  induction m with
  | nil => simp only [sparseSet] at h; split at h <;> simp_all
  | cons y rest ih =>
    obtain ⟨i, w⟩ := y
    simp only [sparseSet] at h
    split at h
    · split at h <;> simp_all; tauto
    · split at h
      · split at h <;> simp_all; tauto
      · rcases List.mem_cons.mp h with h | h
        · simp [h]
        · rcases ih h with h | h <;> simp [h]

/-- A write keeps the keys strictly rising. -/
theorem sparseSet_rising {m : List (Nat × α)} (hm : m.Pairwise (fun x y => x.1 < y.1)) (k : Nat) (v : α) :
    (sparseSet d m k v).Pairwise (fun x y => x.1 < y.1) := by
  induction m with
  | nil => simp only [sparseSet]; split <;> simp
  | cons y rest ih =>
    obtain ⟨i, w⟩ := y
    obtain ⟨hi, hr⟩ := List.pairwise_cons.mp hm
    simp only [sparseSet]
    split
    · rename_i hk
      split
      · exact hm
      · refine List.pairwise_cons.mpr ⟨fun x hx => ?_, hm⟩
        rcases List.mem_cons.mp hx with rfl | hx
        · exact hk
        · exact hk.trans (hi x hx)
    · split
      · rename_i hk
        split
        · exact hr
        · exact List.pairwise_cons.mpr ⟨fun x hx => hk ▸ hi x hx, hr⟩
      · refine List.pairwise_cons.mpr ⟨fun x hx => ?_, ih hr⟩
        rcases mem_sparseSet hx with hx | ⟨rfl, -⟩
        · exact hi x hx
        · show i < k; omega

/-- A write keeps the canonical form. -/
theorem sparseSet_wf {bound : Nat} {m : List (Nat × α)} (hm : sparseWf d bound m) {k : Nat} (hk : k < bound)
    (v : α) : sparseWf d bound (sparseSet d m k v) := by
  refine ⟨sparseSet_rising hm.1 k v, fun x hx => ?_⟩
  rcases mem_sparseSet hx with hx | ⟨rfl, hv⟩
  · exact hm.2 x hx
  · exact ⟨hk, hv⟩

/-- Two canonical tables that read alike are equal data. -/
theorem sparse_ext {b : Nat} {m n : List (Nat × α)} (hm : sparseWf d b m) (hn : sparseWf d b n)
    (h : ∀ k, sparseGet d m k = sparseGet d n k) : m = n := by
  induction m generalizing n with
  | nil =>
    cases n with
    | nil => rfl
    | cons y n =>
      obtain ⟨j, w⟩ := y
      have := h j
      simp [sparseGet] at this
      exact absurd this.symm (hn.2 (j, w) (by simp)).2
  | cons x m ih =>
    obtain ⟨i, v⟩ := x
    cases n with
    | nil =>
      have := h i
      simp [sparseGet] at this
      exact absurd this (hm.2 (i, v) (by simp)).2
    | cons y n =>
      obtain ⟨j, w⟩ := y
      have hi := h i
      have hj := h j
      have hv : v ≠ d := (hm.2 (i, v) (by simp)).2
      have hw : w ≠ d := (hn.2 (j, w) (by simp)).2
      have hij : i = j := by
        rcases Nat.lt_trichotomy i j with hlt | heq | hgt
        · have : sparseGet d ((j, w) :: n) i = d :=
            sparseGet_of_lt fun y hy => by
              rcases List.mem_cons.mp hy with rfl | hy
              · exact hlt
              · exact rising_tail hn.1 hlt.le y hy
          simp [sparseGet] at hi this
          exact absurd (hi.trans this) hv
        · exact heq
        · have : sparseGet d ((i, v) :: m) j = d :=
            sparseGet_of_lt fun y hy => by
              rcases List.mem_cons.mp hy with rfl | hy
              · exact hgt
              · exact rising_tail hm.1 hgt.le y hy
          simp [sparseGet] at hj this
          exact absurd (hj.symm.trans this) hw
      subst hij
      have hvw : v = w := by simpa [sparseGet] using hi
      subst hvw
      have hrest : m = n := by
        refine ih ⟨(List.pairwise_cons.mp hm.1).2, fun x hx => hm.2 x (by simp [hx])⟩
          ⟨(List.pairwise_cons.mp hn.1).2, fun x hx => hn.2 x (by simp [hx])⟩ fun k => ?_
        by_cases hk : i = k
        · subst hk
          rw [sparseGet_of_lt (rising_tail hm.1 le_rfl), sparseGet_of_lt (rising_tail hn.1 le_rfl)]
        · simpa [sparseGet, hk] using h k
      rw [hrest]

/-! One byte. -/

theorem readByte_writeByte {m : Memory} (hm : Memory.wf m) (a i : Nat) (b : Byte) :
    readByte (writeByte m a b) i = if i = a then b else readByte m i :=
  sparseGet_sparseSet hm.1 a i b

theorem writeByte_wf {m : Memory} (hm : Memory.wf m) {a : Nat} (ha : a < Config.maxPayload) (b : Byte) :
    Memory.wf (writeByte m a b) :=
  sparseSet_wf hm ha b

/-! A range of bytes. -/

theorem memWrite_wf {m : Memory} (hm : Memory.wf m) {a : Nat} {v : List Byte}
    (h : a + v.length ≤ Config.maxPayload) : Memory.wf (memWrite m a v) := by
  induction v generalizing m a with
  | nil => exact hm
  | cons b bs ih =>
    simp only [List.length_cons] at h
    exact ih (writeByte_wf hm (by omega) b) (by omega)

/-- A read after `MemWrite`: the written bytes inside the range, the old byte outside it. -/
theorem readByte_memWrite {m : Memory} (hm : Memory.wf m) {a : Nat} {v : List Byte}
    (h : a + v.length ≤ Config.maxPayload) (i : Nat) :
    readByte (memWrite m a v) i = if a ≤ i ∧ i < a + v.length then v.getD (i - a) 0#8 else readByte m i := by
  induction v generalizing m a with
  | nil => simp [memWrite]
  | cons b bs ih =>
    simp only [List.length_cons] at h
    rw [memWrite, ih (writeByte_wf hm (by omega) b) (by omega), readByte_writeByte hm]
    by_cases h1 : i = a
    · subst h1; simp
    · by_cases h2 : a + 1 ≤ i ∧ i < a + 1 + bs.length
      · rw [if_pos h2, if_pos (by simp; omega), show i - a = (i - (a + 1)) + 1 by omega]
        simp
      · rw [if_neg h2, if_neg h1, if_neg (by simp; omega)]

@[simp] theorem length_memRead (m : Memory) (a n : Nat) : (memRead m a n).length = n := by
  induction n generalizing a with
  | zero => rfl
  | succ k ih => simp [memRead, ih]

/-- `MemRead` byte by byte. -/
theorem getD_memRead (m : Memory) (a n : Nat) {i : Nat} (h : i < n) :
    (memRead m a n).getD i 0#8 = readByte m (a + i) := by
  induction n generalizing a i with
  | zero => omega
  | succ k ih =>
    cases i with
    | zero => simp [memRead]
    | succ j =>
      rw [memRead, List.getD_cons_succ, ih (a + 1) (by omega)]
      congr 1
      omega

/-! The slot table. -/

@[simp] theorem slotAt_nil (c : Byte) : slotAt [] c = Slot.empty := rfl

theorem slotAt_setSlot {t : SlotTable} (ht : sparseWf Slot.empty 256 t) (c e : Byte) (r : Slot) :
    slotAt (setSlot t c r) e = if e = c then r else slotAt t e := by
  simp only [slotAt, setSlot, sparseGet_sparseSet ht.1, BitVec.toNat_inj]

theorem setSlot_wf {t : SlotTable} (ht : sparseWf Slot.empty 256 t) (c : Byte) (r : Slot) :
    sparseWf Slot.empty 256 (setSlot t c r) :=
  sparseSet_wf ht c.isLt r

end Sys2Proof.Machine
end

