-- ==== Sys2Proof/Laws/State.lean ====
section
/-! SUPPORT. Every field after every named update of the state, so that no proof unfolds a record update. -/

namespace Sys2Proof.Machine

/-! `raise` -/

@[simp] theorem raise_rxbuf (e : Event) (s : State) : (raise e s).rxbuf = s.rxbuf := rfl
@[simp] theorem raise_txq (e : Event) (s : State) : (raise e s).txq = s.txq := rfl
@[simp] theorem raise_txCmd (e : Event) (s : State) : (raise e s).txCmd = s.txCmd := rfl
@[simp] theorem raise_txPlen (e : Event) (s : State) : (raise e s).txPlen = s.txPlen := rfl
@[simp] theorem raise_txp (e : Event) (s : State) : (raise e s).txp = s.txp := rfl
@[simp] theorem raise_rxEn (e : Event) (s : State) : (raise e s).rxEn = s.rxEn := rfl
@[simp] theorem raise_closed (e : Event) (s : State) : (raise e s).closed = s.closed := rfl
@[simp] theorem raise_evt (e : Event) (s : State) : (raise e s).evt = s.evt ||| eventFlag e := rfl
@[simp] theorem raise_ien (e : Event) (s : State) : (raise e s).ien = s.ien := rfl
@[simp] theorem raise_slots (e : Event) (s : State) : (raise e s).slots = s.slots := rfl
@[simp] theorem raise_slotSel (e : Event) (s : State) : (raise e s).slotSel = s.slotSel := rfl
@[simp] theorem raise_snap (e : Event) (s : State) : (raise e s).snap = s.snap := rfl
@[simp] theorem raise_log (e : Event) (s : State) : (raise e s).log = recordEvent e s.log := rfl
@[simp] theorem raise_txwire (e : Event) (s : State) : (raise e s).txwire = s.txwire := rfl
@[simp] theorem raise_hostRd (e : Event) (s : State) : (raise e s).hostRd = s.hostRd := rfl
@[simp] theorem raise_inputs (e : Event) (s : State) : (raise e s).inputs = s.inputs := rfl

/-! `evtClear` -/

@[simp] theorem evtClear_rxbuf (m : BitVec 9) (s : State) : (evtClear m s).rxbuf = s.rxbuf := rfl
@[simp] theorem evtClear_txq (m : BitVec 9) (s : State) : (evtClear m s).txq = s.txq := rfl
@[simp] theorem evtClear_txCmd (m : BitVec 9) (s : State) : (evtClear m s).txCmd = s.txCmd := rfl
@[simp] theorem evtClear_txPlen (m : BitVec 9) (s : State) : (evtClear m s).txPlen = s.txPlen := rfl
@[simp] theorem evtClear_txp (m : BitVec 9) (s : State) : (evtClear m s).txp = s.txp := rfl
@[simp] theorem evtClear_rxEn (m : BitVec 9) (s : State) : (evtClear m s).rxEn = s.rxEn := rfl
@[simp] theorem evtClear_closed (m : BitVec 9) (s : State) : (evtClear m s).closed = s.closed := rfl
@[simp] theorem evtClear_evt (m : BitVec 9) (s : State) : (evtClear m s).evt = s.evt &&& ~~~m := rfl
@[simp] theorem evtClear_ien (m : BitVec 9) (s : State) : (evtClear m s).ien = s.ien := rfl
@[simp] theorem evtClear_slots (m : BitVec 9) (s : State) : (evtClear m s).slots = s.slots := rfl
@[simp] theorem evtClear_slotSel (m : BitVec 9) (s : State) : (evtClear m s).slotSel = s.slotSel := rfl
@[simp] theorem evtClear_snap (m : BitVec 9) (s : State) : (evtClear m s).snap = s.snap := rfl
@[simp] theorem evtClear_log (m : BitVec 9) (s : State) : (evtClear m s).log = s.log := rfl
@[simp] theorem evtClear_txwire (m : BitVec 9) (s : State) : (evtClear m s).txwire = s.txwire := rfl
@[simp] theorem evtClear_hostRd (m : BitVec 9) (s : State) : (evtClear m s).hostRd = s.hostRd := rfl
@[simp] theorem evtClear_inputs (m : BitVec 9) (s : State) : (evtClear m s).inputs = s.inputs := rfl

/-! `rxFlush` -/

@[simp] theorem rxFlush_rxbuf (s : State) : (rxFlush s).rxbuf = [] := rfl
@[simp] theorem rxFlush_txq (s : State) : (rxFlush s).txq = s.txq := rfl
@[simp] theorem rxFlush_txCmd (s : State) : (rxFlush s).txCmd = s.txCmd := rfl
@[simp] theorem rxFlush_txPlen (s : State) : (rxFlush s).txPlen = s.txPlen := rfl
@[simp] theorem rxFlush_txp (s : State) : (rxFlush s).txp = s.txp := rfl
@[simp] theorem rxFlush_rxEn (s : State) : (rxFlush s).rxEn = s.rxEn := rfl
@[simp] theorem rxFlush_closed (s : State) : (rxFlush s).closed = s.closed := rfl
@[simp] theorem rxFlush_evt (s : State) : (rxFlush s).evt = s.evt := rfl
@[simp] theorem rxFlush_ien (s : State) : (rxFlush s).ien = s.ien := rfl
@[simp] theorem rxFlush_slots (s : State) : (rxFlush s).slots = s.slots := rfl
@[simp] theorem rxFlush_slotSel (s : State) : (rxFlush s).slotSel = s.slotSel := rfl
@[simp] theorem rxFlush_snap (s : State) : (rxFlush s).snap = s.snap := rfl
@[simp] theorem rxFlush_log (s : State) : (rxFlush s).log = s.log := rfl
@[simp] theorem rxFlush_txwire (s : State) : (rxFlush s).txwire = s.txwire := rfl
@[simp] theorem rxFlush_hostRd (s : State) : (rxFlush s).hostRd = s.hostRd := rfl
@[simp] theorem rxFlush_inputs (s : State) : (rxFlush s).inputs = s.inputs := rfl

/-! `loadFrame` -/

@[simp] theorem loadFrame_rxbuf (cmd : Byte) (payload : List Byte) (s : State) : (loadFrame cmd payload s).rxbuf = s.rxbuf := rfl
@[simp] theorem loadFrame_txq (cmd : Byte) (payload : List Byte) (s : State) : (loadFrame cmd payload s).txq = frame cmd payload := rfl
@[simp] theorem loadFrame_txCmd (cmd : Byte) (payload : List Byte) (s : State) : (loadFrame cmd payload s).txCmd = s.txCmd := rfl
@[simp] theorem loadFrame_txPlen (cmd : Byte) (payload : List Byte) (s : State) : (loadFrame cmd payload s).txPlen = s.txPlen := rfl
@[simp] theorem loadFrame_txp (cmd : Byte) (payload : List Byte) (s : State) : (loadFrame cmd payload s).txp = s.txp := rfl
@[simp] theorem loadFrame_rxEn (cmd : Byte) (payload : List Byte) (s : State) : (loadFrame cmd payload s).rxEn = s.rxEn := rfl
@[simp] theorem loadFrame_closed (cmd : Byte) (payload : List Byte) (s : State) : (loadFrame cmd payload s).closed = s.closed := rfl
@[simp] theorem loadFrame_evt (cmd : Byte) (payload : List Byte) (s : State) : (loadFrame cmd payload s).evt = s.evt := rfl
@[simp] theorem loadFrame_ien (cmd : Byte) (payload : List Byte) (s : State) : (loadFrame cmd payload s).ien = s.ien := rfl
@[simp] theorem loadFrame_slots (cmd : Byte) (payload : List Byte) (s : State) : (loadFrame cmd payload s).slots = s.slots := rfl
@[simp] theorem loadFrame_slotSel (cmd : Byte) (payload : List Byte) (s : State) : (loadFrame cmd payload s).slotSel = s.slotSel := rfl
@[simp] theorem loadFrame_snap (cmd : Byte) (payload : List Byte) (s : State) : (loadFrame cmd payload s).snap = s.snap := rfl
@[simp] theorem loadFrame_log (cmd : Byte) (payload : List Byte) (s : State) : (loadFrame cmd payload s).log = s.log := rfl
@[simp] theorem loadFrame_txwire (cmd : Byte) (payload : List Byte) (s : State) : (loadFrame cmd payload s).txwire = s.txwire := rfl
@[simp] theorem loadFrame_hostRd (cmd : Byte) (payload : List Byte) (s : State) : (loadFrame cmd payload s).hostRd = s.hostRd := rfl
@[simp] theorem loadFrame_inputs (cmd : Byte) (payload : List Byte) (s : State) : (loadFrame cmd payload s).inputs = s.inputs := rfl

/-! `snapLatch` -/

@[simp] theorem snapLatch_rxbuf (c : Byte) (s : State) : (snapLatch c s).rxbuf = s.rxbuf := rfl
@[simp] theorem snapLatch_txq (c : Byte) (s : State) : (snapLatch c s).txq = s.txq := rfl
@[simp] theorem snapLatch_txCmd (c : Byte) (s : State) : (snapLatch c s).txCmd = s.txCmd := rfl
@[simp] theorem snapLatch_txPlen (c : Byte) (s : State) : (snapLatch c s).txPlen = s.txPlen := rfl
@[simp] theorem snapLatch_txp (c : Byte) (s : State) : (snapLatch c s).txp = s.txp := rfl
@[simp] theorem snapLatch_rxEn (c : Byte) (s : State) : (snapLatch c s).rxEn = s.rxEn := rfl
@[simp] theorem snapLatch_closed (c : Byte) (s : State) : (snapLatch c s).closed = s.closed := rfl
@[simp] theorem snapLatch_evt (c : Byte) (s : State) : (snapLatch c s).evt = s.evt := rfl
@[simp] theorem snapLatch_ien (c : Byte) (s : State) : (snapLatch c s).ien = s.ien := rfl
@[simp] theorem snapLatch_slots (c : Byte) (s : State) : (snapLatch c s).slots = s.slots := rfl
@[simp] theorem snapLatch_slotSel (c : Byte) (s : State) : (snapLatch c s).slotSel = c := rfl
@[simp] theorem snapLatch_snap (c : Byte) (s : State) : (snapLatch c s).snap = slotAt s.slots c := rfl
@[simp] theorem snapLatch_log (c : Byte) (s : State) : (snapLatch c s).log = s.log := rfl
@[simp] theorem snapLatch_txwire (c : Byte) (s : State) : (snapLatch c s).txwire = s.txwire := rfl
@[simp] theorem snapLatch_hostRd (c : Byte) (s : State) : (snapLatch c s).hostRd = s.hostRd := rfl
@[simp] theorem snapLatch_inputs (c : Byte) (s : State) : (snapLatch c s).inputs = s.inputs := rfl

/-! `ctrlWrite` -/

@[simp] theorem ctrlWrite_rxbuf (v : Word) (s : State) : (ctrlWrite v s).rxbuf = s.rxbuf := rfl
@[simp] theorem ctrlWrite_txq (v : Word) (s : State) : (ctrlWrite v s).txq = s.txq := rfl
@[simp] theorem ctrlWrite_txCmd (v : Word) (s : State) : (ctrlWrite v s).txCmd = s.txCmd := rfl
@[simp] theorem ctrlWrite_txPlen (v : Word) (s : State) : (ctrlWrite v s).txPlen = s.txPlen := rfl
@[simp] theorem ctrlWrite_txp (v : Word) (s : State) : (ctrlWrite v s).txp = s.txp := rfl
@[simp] theorem ctrlWrite_rxEn (v : Word) (s : State) : (ctrlWrite v s).rxEn = v.getLsbD 0 := rfl
@[simp] theorem ctrlWrite_closed (v : Word) (s : State) : (ctrlWrite v s).closed = s.closed := rfl
@[simp] theorem ctrlWrite_evt (v : Word) (s : State) : (ctrlWrite v s).evt = s.evt := rfl
@[simp] theorem ctrlWrite_ien (v : Word) (s : State) : (ctrlWrite v s).ien = s.ien := rfl
@[simp] theorem ctrlWrite_slots (v : Word) (s : State) : (ctrlWrite v s).slots = s.slots := rfl
@[simp] theorem ctrlWrite_slotSel (v : Word) (s : State) : (ctrlWrite v s).slotSel = s.slotSel := rfl
@[simp] theorem ctrlWrite_snap (v : Word) (s : State) : (ctrlWrite v s).snap = s.snap := rfl
@[simp] theorem ctrlWrite_log (v : Word) (s : State) : (ctrlWrite v s).log = s.log := rfl
@[simp] theorem ctrlWrite_txwire (v : Word) (s : State) : (ctrlWrite v s).txwire = s.txwire := rfl
@[simp] theorem ctrlWrite_hostRd (v : Word) (s : State) : (ctrlWrite v s).hostRd = s.hostRd := rfl
@[simp] theorem ctrlWrite_inputs (v : Word) (s : State) : (ctrlWrite v s).inputs = s.inputs := rfl

/-! `ienWrite` -/

@[simp] theorem ienWrite_rxbuf (v : Word) (s : State) : (ienWrite v s).rxbuf = s.rxbuf := rfl
@[simp] theorem ienWrite_txq (v : Word) (s : State) : (ienWrite v s).txq = s.txq := rfl
@[simp] theorem ienWrite_txCmd (v : Word) (s : State) : (ienWrite v s).txCmd = s.txCmd := rfl
@[simp] theorem ienWrite_txPlen (v : Word) (s : State) : (ienWrite v s).txPlen = s.txPlen := rfl
@[simp] theorem ienWrite_txp (v : Word) (s : State) : (ienWrite v s).txp = s.txp := rfl
@[simp] theorem ienWrite_rxEn (v : Word) (s : State) : (ienWrite v s).rxEn = s.rxEn := rfl
@[simp] theorem ienWrite_closed (v : Word) (s : State) : (ienWrite v s).closed = s.closed := rfl
@[simp] theorem ienWrite_evt (v : Word) (s : State) : (ienWrite v s).evt = s.evt := rfl
@[simp] theorem ienWrite_ien (v : Word) (s : State) : (ienWrite v s).ien = v.extractLsb' 0 9 := rfl
@[simp] theorem ienWrite_slots (v : Word) (s : State) : (ienWrite v s).slots = s.slots := rfl
@[simp] theorem ienWrite_slotSel (v : Word) (s : State) : (ienWrite v s).slotSel = s.slotSel := rfl
@[simp] theorem ienWrite_snap (v : Word) (s : State) : (ienWrite v s).snap = s.snap := rfl
@[simp] theorem ienWrite_log (v : Word) (s : State) : (ienWrite v s).log = s.log := rfl
@[simp] theorem ienWrite_txwire (v : Word) (s : State) : (ienWrite v s).txwire = s.txwire := rfl
@[simp] theorem ienWrite_hostRd (v : Word) (s : State) : (ienWrite v s).hostRd = s.hostRd := rfl
@[simp] theorem ienWrite_inputs (v : Word) (s : State) : (ienWrite v s).inputs = s.inputs := rfl

/-! `markClosed` -/

@[simp] theorem markClosed_rxbuf (s : State) : (markClosed s).rxbuf = s.rxbuf := rfl
@[simp] theorem markClosed_txq (s : State) : (markClosed s).txq = s.txq := rfl
@[simp] theorem markClosed_txCmd (s : State) : (markClosed s).txCmd = s.txCmd := rfl
@[simp] theorem markClosed_txPlen (s : State) : (markClosed s).txPlen = s.txPlen := rfl
@[simp] theorem markClosed_txp (s : State) : (markClosed s).txp = s.txp := rfl
@[simp] theorem markClosed_rxEn (s : State) : (markClosed s).rxEn = s.rxEn := rfl
@[simp] theorem markClosed_closed (s : State) : (markClosed s).closed = true := rfl
@[simp] theorem markClosed_evt (s : State) : (markClosed s).evt = s.evt ||| eventFlag .closed := rfl
@[simp] theorem markClosed_ien (s : State) : (markClosed s).ien = s.ien := rfl
@[simp] theorem markClosed_slots (s : State) : (markClosed s).slots = s.slots := rfl
@[simp] theorem markClosed_slotSel (s : State) : (markClosed s).slotSel = s.slotSel := rfl
@[simp] theorem markClosed_snap (s : State) : (markClosed s).snap = s.snap := rfl
@[simp] theorem markClosed_log (s : State) : (markClosed s).log = s.log := rfl
@[simp] theorem markClosed_txwire (s : State) : (markClosed s).txwire = s.txwire := rfl
@[simp] theorem markClosed_hostRd (s : State) : (markClosed s).hostRd = s.hostRd := rfl
@[simp] theorem markClosed_inputs (s : State) : (markClosed s).inputs = s.inputs := rfl

/-! `resetBlock` -/

@[simp] theorem resetBlock_rxbuf (s : State) : (resetBlock s).rxbuf = [] := rfl
@[simp] theorem resetBlock_txq (s : State) : (resetBlock s).txq = [] := rfl
@[simp] theorem resetBlock_txCmd (s : State) : (resetBlock s).txCmd = 0x00#8 := rfl
@[simp] theorem resetBlock_txPlen (s : State) : (resetBlock s).txPlen = 0x0000#16 := rfl
@[simp] theorem resetBlock_txp (s : State) : (resetBlock s).txp = [] := rfl
@[simp] theorem resetBlock_rxEn (s : State) : (resetBlock s).rxEn = false := rfl
@[simp] theorem resetBlock_closed (s : State) : (resetBlock s).closed = false := rfl
@[simp] theorem resetBlock_evt (s : State) : (resetBlock s).evt = 0#9 := rfl
@[simp] theorem resetBlock_ien (s : State) : (resetBlock s).ien = 0#9 := rfl
@[simp] theorem resetBlock_slots (s : State) : (resetBlock s).slots = [] := rfl
@[simp] theorem resetBlock_slotSel (s : State) : (resetBlock s).slotSel = 0x00#8 := rfl
@[simp] theorem resetBlock_snap (s : State) : (resetBlock s).snap = Slot.empty := rfl
@[simp] theorem resetBlock_log (s : State) : (resetBlock s).log = State.reset.log := rfl
@[simp] theorem resetBlock_txwire (s : State) : (resetBlock s).txwire = s.txwire := rfl
@[simp] theorem resetBlock_hostRd (s : State) : (resetBlock s).hostRd = s.hostRd := rfl
@[simp] theorem resetBlock_inputs (s : State) : (resetBlock s).inputs = s.inputs := rfl

/-! `State.reset` -/

@[simp] theorem reset_rxbuf : State.reset.rxbuf = [] := rfl
@[simp] theorem reset_txq : State.reset.txq = [] := rfl
@[simp] theorem reset_txCmd : State.reset.txCmd = 0x00#8 := rfl
@[simp] theorem reset_txPlen : State.reset.txPlen = 0x0000#16 := rfl
@[simp] theorem reset_txp : State.reset.txp = [] := rfl
@[simp] theorem reset_rxEn : State.reset.rxEn = false := rfl
@[simp] theorem reset_closed : State.reset.closed = false := rfl
@[simp] theorem reset_evt : State.reset.evt = 0#9 := rfl
@[simp] theorem reset_ien : State.reset.ien = 0#9 := rfl
@[simp] theorem reset_slots : State.reset.slots = [] := rfl
@[simp] theorem reset_slotSel : State.reset.slotSel = 0x00#8 := rfl
@[simp] theorem reset_snap : State.reset.snap = Slot.empty := rfl
@[simp] theorem reset_txwire : State.reset.txwire = [] := rfl
@[simp] theorem reset_hostRd : State.reset.hostRd = [] := rfl
@[simp] theorem reset_inputs : State.reset.inputs = [] := rfl

/-! `raiseVariant`, `publish` and `answer` change only `slots`, `evt` and `log`. -/

@[simp] theorem raiseVariant_rxbuf (cmd : Byte) (tag : Tag) (s : State) :
    (raiseVariant cmd tag s).rxbuf = s.rxbuf := by cases tag <;> rfl
@[simp] theorem raiseVariant_txq (cmd : Byte) (tag : Tag) (s : State) :
    (raiseVariant cmd tag s).txq = s.txq := by cases tag <;> rfl
@[simp] theorem raiseVariant_txCmd (cmd : Byte) (tag : Tag) (s : State) :
    (raiseVariant cmd tag s).txCmd = s.txCmd := by cases tag <;> rfl
@[simp] theorem raiseVariant_txPlen (cmd : Byte) (tag : Tag) (s : State) :
    (raiseVariant cmd tag s).txPlen = s.txPlen := by cases tag <;> rfl
@[simp] theorem raiseVariant_txp (cmd : Byte) (tag : Tag) (s : State) :
    (raiseVariant cmd tag s).txp = s.txp := by cases tag <;> rfl
@[simp] theorem raiseVariant_rxEn (cmd : Byte) (tag : Tag) (s : State) :
    (raiseVariant cmd tag s).rxEn = s.rxEn := by cases tag <;> rfl
@[simp] theorem raiseVariant_closed (cmd : Byte) (tag : Tag) (s : State) :
    (raiseVariant cmd tag s).closed = s.closed := by cases tag <;> rfl
@[simp] theorem raiseVariant_ien (cmd : Byte) (tag : Tag) (s : State) :
    (raiseVariant cmd tag s).ien = s.ien := by cases tag <;> rfl
@[simp] theorem raiseVariant_slots (cmd : Byte) (tag : Tag) (s : State) :
    (raiseVariant cmd tag s).slots = s.slots := by cases tag <;> rfl
@[simp] theorem raiseVariant_slotSel (cmd : Byte) (tag : Tag) (s : State) :
    (raiseVariant cmd tag s).slotSel = s.slotSel := by cases tag <;> rfl
@[simp] theorem raiseVariant_snap (cmd : Byte) (tag : Tag) (s : State) :
    (raiseVariant cmd tag s).snap = s.snap := by cases tag <;> rfl
@[simp] theorem raiseVariant_txwire (cmd : Byte) (tag : Tag) (s : State) :
    (raiseVariant cmd tag s).txwire = s.txwire := by cases tag <;> rfl
@[simp] theorem raiseVariant_hostRd (cmd : Byte) (tag : Tag) (s : State) :
    (raiseVariant cmd tag s).hostRd = s.hostRd := by cases tag <;> rfl
@[simp] theorem raiseVariant_inputs (cmd : Byte) (tag : Tag) (s : State) :
    (raiseVariant cmd tag s).inputs = s.inputs := by cases tag <;> rfl

@[simp] theorem publish_rxbuf (cmd : Byte) (tag : Tag) (payload : List Byte) (s : State) :
    (publish cmd tag payload s).rxbuf = s.rxbuf := by cases tag <;> rfl
@[simp] theorem publish_txq (cmd : Byte) (tag : Tag) (payload : List Byte) (s : State) :
    (publish cmd tag payload s).txq = s.txq := by cases tag <;> rfl
@[simp] theorem publish_txCmd (cmd : Byte) (tag : Tag) (payload : List Byte) (s : State) :
    (publish cmd tag payload s).txCmd = s.txCmd := by cases tag <;> rfl
@[simp] theorem publish_txPlen (cmd : Byte) (tag : Tag) (payload : List Byte) (s : State) :
    (publish cmd tag payload s).txPlen = s.txPlen := by cases tag <;> rfl
@[simp] theorem publish_txp (cmd : Byte) (tag : Tag) (payload : List Byte) (s : State) :
    (publish cmd tag payload s).txp = s.txp := by cases tag <;> rfl
@[simp] theorem publish_rxEn (cmd : Byte) (tag : Tag) (payload : List Byte) (s : State) :
    (publish cmd tag payload s).rxEn = s.rxEn := by cases tag <;> rfl
@[simp] theorem publish_closed (cmd : Byte) (tag : Tag) (payload : List Byte) (s : State) :
    (publish cmd tag payload s).closed = s.closed := by cases tag <;> rfl
@[simp] theorem publish_ien (cmd : Byte) (tag : Tag) (payload : List Byte) (s : State) :
    (publish cmd tag payload s).ien = s.ien := by cases tag <;> rfl
@[simp] theorem publish_slotSel (cmd : Byte) (tag : Tag) (payload : List Byte) (s : State) :
    (publish cmd tag payload s).slotSel = s.slotSel := by cases tag <;> rfl
@[simp] theorem publish_snap (cmd : Byte) (tag : Tag) (payload : List Byte) (s : State) :
    (publish cmd tag payload s).snap = s.snap := by cases tag <;> rfl
@[simp] theorem publish_txwire (cmd : Byte) (tag : Tag) (payload : List Byte) (s : State) :
    (publish cmd tag payload s).txwire = s.txwire := by cases tag <;> rfl
@[simp] theorem publish_hostRd (cmd : Byte) (tag : Tag) (payload : List Byte) (s : State) :
    (publish cmd tag payload s).hostRd = s.hostRd := by cases tag <;> rfl
@[simp] theorem publish_inputs (cmd : Byte) (tag : Tag) (payload : List Byte) (s : State) :
    (publish cmd tag payload s).inputs = s.inputs := by cases tag <;> rfl

@[simp] theorem publish_slots (cmd : Byte) (tag : Tag) (payload : List Byte) (s : State) :
    (publish cmd tag payload s).slots =
      setSlot s.slots cmd (publishedSlot (slotAt s.slots cmd) tag payload) := by cases tag <;> rfl

@[simp] theorem publish_evt (cmd : Byte) (tag : Tag) (payload : List Byte) (s : State) :
    (publish cmd tag payload s).evt = s.evt ||| publishFlags tag := by
  cases tag <;> simp [publish, raiseVariant, publishFlags, eventFlag, eventCode, BitVec.or_assoc]

@[simp] theorem publish_log (cmd : Byte) (tag : Tag) (payload : List Byte) (s : State) :
    (publish cmd tag payload s).log =
      { s.log with lastPub := cmd, lastUnsup := if tag = .raw then cmd else s.log.lastUnsup } := by
  cases tag <;> rfl

@[simp] theorem answer_rxbuf (cmd : Byte) (payload : List Byte) (s : State) :
    (answer cmd payload s).rxbuf = s.rxbuf := by
  unfold answer; split <;> simp
@[simp] theorem answer_txq (cmd : Byte) (payload : List Byte) (s : State) :
    (answer cmd payload s).txq = s.txq := by
  unfold answer; split <;> simp
@[simp] theorem answer_txCmd (cmd : Byte) (payload : List Byte) (s : State) :
    (answer cmd payload s).txCmd = s.txCmd := by
  unfold answer; split <;> simp
@[simp] theorem answer_txPlen (cmd : Byte) (payload : List Byte) (s : State) :
    (answer cmd payload s).txPlen = s.txPlen := by
  unfold answer; split <;> simp
@[simp] theorem answer_txp (cmd : Byte) (payload : List Byte) (s : State) :
    (answer cmd payload s).txp = s.txp := by
  unfold answer; split <;> simp
@[simp] theorem answer_rxEn (cmd : Byte) (payload : List Byte) (s : State) :
    (answer cmd payload s).rxEn = s.rxEn := by
  unfold answer; split <;> simp
@[simp] theorem answer_closed (cmd : Byte) (payload : List Byte) (s : State) :
    (answer cmd payload s).closed = s.closed := by
  unfold answer; split <;> simp
@[simp] theorem answer_ien (cmd : Byte) (payload : List Byte) (s : State) :
    (answer cmd payload s).ien = s.ien := by
  unfold answer; split <;> simp
@[simp] theorem answer_slotSel (cmd : Byte) (payload : List Byte) (s : State) :
    (answer cmd payload s).slotSel = s.slotSel := by
  unfold answer; split <;> simp
@[simp] theorem answer_snap (cmd : Byte) (payload : List Byte) (s : State) :
    (answer cmd payload s).snap = s.snap := by
  unfold answer; split <;> simp
@[simp] theorem answer_txwire (cmd : Byte) (payload : List Byte) (s : State) :
    (answer cmd payload s).txwire = s.txwire := by
  unfold answer; split <;> simp
@[simp] theorem answer_hostRd (cmd : Byte) (payload : List Byte) (s : State) :
    (answer cmd payload s).hostRd = s.hostRd := by
  unfold answer; split <;> simp
@[simp] theorem answer_inputs (cmd : Byte) (payload : List Byte) (s : State) :
    (answer cmd payload s).inputs = s.inputs := by
  unfold answer; split <;> simp

end Sys2Proof.Machine
end

