-- ==== Sys2Proof/Laws/Ops.lean ====
section
/-! SUPPORT. What each shared operation can do, said once: the decoder, publishing, ENCODE, closing, and the
next operation of a step. -/

namespace Sys2Proof.Machine

/-! The decoder. -/

/-- A statement about every byte, from its 256 cases. -/
theorem forall_byte {P : Byte → Prop} (h : ∀ n : Fin 256, P (BitVec.ofFin n)) (b : Byte) : P b := h b.toFin

/-- No command code has the tag of an empty slot (R181, R195 (a)). -/
theorem dispatch_ne_none (c : Byte) : (dispatch c).1 ≠ .none :=
  forall_byte (P := fun c => (dispatch c).1 ≠ .none) (by decide +kernel) c

/-- A decoded answer has the tag of its command code, and a length the variant allows (R180). -/
theorem decodeAnswer_some {cmd : Byte} {p : List Byte} {tag : Tag} (h : decodeAnswer cmd p = some tag) :
    tag = (dispatch cmd).1 ∧ needMet (dispatch cmd).2 p.length = true := by
  unfold decodeAnswer at h
  split at h
  · exact ⟨(Option.some.inj h).symm, ‹_›⟩
  · cases h

/-- What the engine does with an answer: a decode error is raised, or the answer is published (R162). -/
theorem answer_cases (cmd : Byte) (p : List Byte) (s : State) :
    (decodeAnswer cmd p = none ∧ answer cmd p s = raise (.decerr cmd) s) ∨
    (∃ tag, decodeAnswer cmd p = some tag ∧ answer cmd p s = publish cmd tag p s) := by
  unfold answer
  cases h : decodeAnswer cmd p with
  | none => exact .inl ⟨rfl, rfl⟩
  | some tag => exact .inr ⟨tag, rfl, rfl⟩

@[simp] theorem tagOfCode_tagCode (t : Tag) : tagOfCode (tagCode t) = some t := by cases t <;> rfl

/-- The tag code is injective (R31). -/
theorem tagCode_inj {a b : Tag} (h : tagCode a = tagCode b) : a = b := by
  have := congrArg tagOfCode h
  simpa using this

/-! Publishing. -/

/-- The slot of a publish, read byte by byte (R220). -/
theorem readByte_publishedSlot {old : Slot} (ho : Memory.wf old.data) (tag : Tag) {p : List Byte}
    (hp : p.length ≤ Config.maxPayload) (i : Nat) :
    readByte (publishedSlot old tag p).data i = if i < p.length then p.getD i 0#8 else readByte old.data i := by
  rw [publishedSlot, readByte_memWrite ho (by simpa using hp)]
  simp

theorem plen_publishedSlot (old : Slot) (tag : Tag) {p : List Byte} (hp : p.length ≤ Config.maxPayload) :
    (publishedSlot old tag p).plen.toNat = p.length := by
  unfold Config.maxPayload at hp
  simp only [publishedSlot, BitVec.toNat_ofNat]
  omega

/-! ENCODE. -/

/-- What ENCODE can do (R131): one refusal, or the staged frame. -/
theorem encodeOp_cases (s : State) :
    (s.closed = true ∧ encodeOp s = raise .encClosed s) ∨
    (s.closed = false ∧ s.txq ≠ [] ∧ encodeOp s = raise .encBusy s) ∨
    (s.closed = false ∧ s.txq = [] ∧ 254 < s.txPlen.toNat ∧ encodeOp s = raise .encLen s) ∨
    (s.closed = false ∧ s.txq = [] ∧ s.txPlen.toNat ≤ 254 ∧
      encodeOp s = loadFrame s.txCmd (memRead s.txp 0 s.txPlen.toNat) s) := by
  unfold encodeOp Config.maxPayload
  split
  · exact .inl ⟨‹_›, rfl⟩
  · split
    · exact .inr (.inl ⟨by simp_all, ‹_›, rfl⟩)
    · split
      · exact .inr (.inr (.inl ⟨by simp_all, by simp_all, ‹_›, rfl⟩))
      · exact .inr (.inr (.inr ⟨by simp_all, by simp_all, by omega, rfl⟩))

/-- What a write to `CMDR` can do (R241). -/
theorem cmdrWrite_cases (v : Word) (s : State) :
    cmdrWrite v s = encodeOp s ∨ cmdrWrite v s = rxFlush s ∨ cmdrWrite v s = closeOp s ∨
      (v.extractLsb' 0 8 = 0x04#8 ∧ cmdrWrite v s = resetBlock s) ∨ cmdrWrite v s = s := by
  unfold cmdrWrite
  split
  · exact .inl rfl
  · split
    · exact .inr (.inl rfl)
    · split
      · exact .inr (.inr (.inl rfl))
      · split
        · exact .inr (.inr (.inr (.inl ⟨‹_›, rfl⟩)))
        · exact .inr (.inr (.inr (.inr rfl)))

/-- What a register write can do (R240). -/
theorem regWrite_cases (n : RegNum) (v : Word) (s : State) :
    regWrite n v s = ctrlWrite v s ∨ (n = 0x001#12 ∧ regWrite n v s = cmdrWrite v s) ∨
    regWrite n v s = evtClear (v.extractLsb' 0 9) s ∨ regWrite n v s = ienWrite v s ∨
    regWrite n v s = { s with txCmd := v.extractLsb' 0 8 } ∨
    regWrite n v s = { s with txPlen := v.extractLsb' 0 16 } ∨
    regWrite n v s = snapLatch (v.extractLsb' 0 8) s ∨
    (0x100 ≤ n.toNat ∧ n.toNat ≤ 0x1FD ∧
      regWrite n v s = { s with txp := writeByte s.txp (n.toNat - 0x100) (v.extractLsb' 0 8) }) ∨
    regWrite n v s = s := by
  unfold regWrite
  split_ifs with h0 h1 h2 h3 h4 h5 h6 h7
  · exact .inl rfl
  · exact .inr (.inl ⟨h1, rfl⟩)
  · exact .inr (.inr (.inl rfl))
  · exact .inr (.inr (.inr (.inl rfl)))
  · exact .inr (.inr (.inr (.inr (.inl rfl))))
  · exact .inr (.inr (.inr (.inr (.inr (.inl rfl)))))
  · exact .inr (.inr (.inr (.inr (.inr (.inr (.inl rfl))))))
  · exact .inr (.inr (.inr (.inr (.inr (.inr (.inr (.inl ⟨h7.1, h7.2, rfl⟩)))))))
  · exact .inr (.inr (.inr (.inr (.inr (.inr (.inr (.inr rfl)))))))

/-! The next operation of a step. -/

/-- The step performs the next operation, or nothing happens. -/
theorem step_eq (s : State) :
    (∃ i s', nextInstr s = some (i, s') ∧ step s = exec i s') ∨ (nextInstr s = none ∧ step s = .next s) := by
  unfold step
  cases h : nextInstr s with
  | none => exact .inr ⟨rfl, rfl⟩
  | some r => exact .inl ⟨r.1, r.2, rfl, rfl⟩

/-- The next operation is a stimulus', decoded, or the engine's; only `inputs` changes before it. -/
theorem nextInstr_cases {s s' : State} {i : Instr} (h : nextInstr s = some (i, s')) :
    (∃ x rest, nextStimulus s = some (x, rest) ∧ i = decodeStimulus x ∧ s' = { s with inputs := rest }) ∨
    (s' = s ∧ nextStimulus s = none ∧
      ((i = .engineStepDrop1 ∧ scan1 s.rxbuf = .drop1) ∨
       (i = .engineStepFrame ∧ ∃ c p t, scan1 s.rxbuf = .frame c p t))) := by
  unfold nextInstr at h
  cases hx : nextStimulus s with
  | some r =>
    simp only [hx, Option.some.injEq, Prod.mk.injEq] at h
    exact .inl ⟨r.1, r.2, rfl, h.1.symm, h.2.symm⟩
  | none =>
    simp only [hx, engineInstr] at h
    right
    cases hs : scan1 s.rxbuf with
    | needMore => simp [hs] at h
    | drop1 =>
      simp only [hs, Option.map_some, Option.some.injEq, Prod.mk.injEq] at h
      exact ⟨h.2.symm, rfl, .inl ⟨h.1.symm, rfl⟩⟩
    | frame c p t =>
      simp only [hs, Option.map_some, Option.some.injEq, Prod.mk.injEq] at h
      exact ⟨h.2.symm, rfl, .inr ⟨h.1.symm, c, p, t, rfl⟩⟩

end Sys2Proof.Machine
end

