-- ==== Sys2Proof/Laws/PerInstr.lean ====
section
/-! SUPPORT. Per operation: the encoding of a well-formed operation satisfies its row of
spec/opcode_table.json (spec/30_encoding.md R107). -/

namespace Sys2Proof.Laws.RowMatch

open Sys2Proof Sys2Proof.Machine

/-- The row of an operation applies to its encoding. -/
def Statement (i : Instr) : Prop := i.wellFormed = true → (rowOf i).applies (encode i) = true

/-- The low byte of a word under the mask 0xFF. -/
theorem low_byte_masked (h : BitVec 24) (c : Byte) : (h ++ c : Word) &&& 0x000000FF#32 = c.setWidth 32 := by
  refine BitVec.eq_of_getLsbD_eq fun i hi => ?_
  rw [BitVec.getLsbD_and, BitVec.getLsbD_append, BitVec.getLsbD_setWidth]
  have hm : (0x000000FF#32 : Word).getLsbD i = decide (i < 8) := by
    have : ∀ k : Fin 32, (0x000000FF#32 : Word).getLsbD k = decide ((k : Nat) < 8) := by decide
    exact this ⟨i, hi⟩
  rw [hm]
  by_cases h8 : i < 8
  · simp [h8, hi]
  · simp [h8, hi, BitVec.getLsbD_of_ge c i (by omega)]

/-- A row with a selector or a mask is not the default row: it applies wherever it is selected. -/
theorem applies_of_selects {r : Row} {c : Code} (hr : r ≠ defaultRow) (h : r.selects c = true) :
    r.applies c = true := by
  simp [Row.applies, h, hr]

/-- Which command byte selects a FRAME_RX row, on a valid candidate (R107 (a)). -/
theorem selects_candidate {p : List Byte} (hp : payloadFits p = true) (pre : BitVec 16) (c : Byte) (w : Word) :
    (Row.mk .frameRx w 0x000000FF none).selects (.frameRx (candidateOf pre c p)) = (c.setWidth 32 == w) := by
  have hf := frameFault_candidateOf (pre := pre) (cmd := c) (show p.length ≤ Config.maxPayload by
    simpa [payloadFits] using hp)
  have hm : headerWord (candidateOf pre c p) &&& 0x000000FF#32 = c.setWidth 32 := low_byte_masked _ c
  simp [Row.selects, rowWord, rxHeader, hf, hm]

/-- The row of a command byte applies to every valid candidate with that byte. -/
theorem applies_candidate {p : List Byte} (hp : payloadFits p = true) (pre : BitVec 16) (c : Byte) :
    (Row.mk .frameRx (c.setWidth 32) 0x000000FF none).applies (.frameRx (candidateOf pre c p)) = true :=
  applies_of_selects (by simp [defaultRow, rowOf]) (by rw [selects_candidate hp]; exact beq_self_eq_true _)

/-- The row of a `CMDR` operation applies to every value with its byte in bits 7:0. -/
theorem applies_cmdr (ign : BitVec 24) (op : Byte) :
    (Row.mk .cmdr (op.setWidth 32) 0x000000FF none).applies (cmdrCode ign op) = true := by
  have hm : cmdrValue ign op &&& 0x000000FF#32 = op.setWidth 32 := low_byte_masked ign op
  exact applies_of_selects (by simp [defaultRow, rowOf]) (by simp [Row.selects, rowWord, cmdrCode, writeOf, hm])

theorem decState (pre : BitVec 16) (p : List Byte) : Statement (.decState pre p) := fun h =>
  applies_candidate h pre 0x95
theorem decPosdone (pre : BitVec 16) (p : List Byte) : Statement (.decPosdone pre p) := fun h =>
  applies_candidate h pre 0x94
theorem decPosobst (pre : BitVec 16) (p : List Byte) : Statement (.decPosobst pre p) := fun h =>
  applies_candidate h pre 0x93
theorem decMoveacc (pre : BitVec 16) (p : List Byte) : Statement (.decMoveacc pre p) := fun h =>
  applies_candidate h pre 0xB0
theorem decRefack (pre : BitVec 16) (p : List Byte) : Statement (.decRefack pre p) := fun h =>
  applies_candidate h pre 0x92
theorem decStopack (pre : BitVec 16) (p : List Byte) : Statement (.decStopack pre p) := fun h =>
  applies_candidate h pre 0x91
theorem decGripack (pre : BitVec 16) (p : List Byte) : Statement (.decGripack pre p) := fun h =>
  applies_candidate h pre 0xB7
theorem decCmderr (pre : BitVec 16) (p : List Byte) : Statement (.decCmderr pre p) := fun h =>
  applies_candidate h pre 0x88
theorem decErrack (pre : BitVec 16) (p : List Byte) : Statement (.decErrack pre p) := fun h =>
  applies_candidate h pre 0x8B
theorem decConfig (pre : BitVec 16) (p : List Byte) : Statement (.decConfig pre p) := fun h =>
  applies_candidate h pre 0x80
theorem decCmdinfo (pre : BitVec 16) (p : List Byte) : Statement (.decCmdinfo pre p) := fun h =>
  applies_candidate h pre 0x8A

/-- Every listed row is one of a command byte. -/
theorem listed_form : ∀ r ∈ listedRxRows, r = Row.mk .frameRx r.pattern 0x000000FF none := by decide

/-- No listed row has the command byte of a RAW code (R181, R193). -/
theorem raw_unlisted (c : Byte) : (dispatch c).1 = .raw → ∀ r ∈ listedRxRows, c.setWidth 32 ≠ r.pattern :=
  forall_byte (P := fun c => (dispatch c).1 = .raw → ∀ r ∈ listedRxRows, c.setWidth 32 ≠ r.pattern)
    (by decide +kernel) c

theorem decRaw (pre : BitVec 16) (cmd : Byte) (p : List Byte) : Statement (.decRaw pre cmd p) := fun h => by
  simp only [Instr.wellFormed, Bool.and_eq_true, beq_iff_eq] at h
  have hf := frameFault_candidateOf (pre := pre) (cmd := cmd) (show p.length ≤ Config.maxPayload by
    simpa [payloadFits] using h.1)
  have hs : (rowOf (.decRaw pre cmd p)).selects (Sys2Proof.encode (.decRaw pre cmd p)) = true := by
    simp [rowOf, Sys2Proof.encode, Row.selects, rowWord, rxHeader, hf]
  have hu : listedRxRows.any (fun r => r.selects (Sys2Proof.encode (.decRaw pre cmd p))) = false := by
    refine List.any_eq_false.mpr fun r hr => ?_
    rw [listed_form r hr, Sys2Proof.encode, selects_candidate h.1]
    simpa using raw_unlisted cmd h.2 r hr
  simp [Row.applies, hs, hu]

/-- The bytes 05 0C at the head of every frame produced are what the row FRAME asks for (R94, R107 (b)). -/
theorem frame_header (cmd : Byte) (p : List Byte) :
    headerWord (Machine.frame cmd p) &&& 0xFFFF0000#32 = 0x050C0000#32 := by
  refine BitVec.eq_of_getLsbD_eq fun i hi => ?_
  rw [Machine.frame, headerWord_candidateOf, preamble, BitVec.getLsbD_and, BitVec.getLsbD_append, BitVec.getLsbD_append]
  have hm : ∀ k : Fin 32, ((k : Nat) < 16 → (0xFFFF0000#32 : Word).getLsbD k = false ∧
      (0x050C0000#32 : Word).getLsbD k = false) ∧
      (16 ≤ (k : Nat) → (0xFFFF0000#32 : Word).getLsbD k = true ∧ (0x050C0000#32 : Word).getLsbD k =
        (BitVec.extractLsb' 8 8 0x050C#16 ++ BitVec.extractLsb' 0 8 0x050C#16).getLsbD (k - 8 - 8)) := by
    decide
  rcases Nat.lt_or_ge i 16 with h | h
  · simp [((hm ⟨i, hi⟩).1 h).1, ((hm ⟨i, hi⟩).1 h).2]
  · simp [((hm ⟨i, hi⟩).2 h).1, ((hm ⟨i, hi⟩).2 h).2, show ¬ i < 8 by omega, show ¬ i - 8 < 8 by omega]

theorem frame (cmd : Byte) (p : List Byte) : Statement (.frame cmd p) := fun h => by
  have hf := frameFault_candidateOf (pre := preamble) (cmd := cmd) (show p.length ≤ Config.maxPayload by
    simpa [payloadFits, Instr.wellFormed] using h)
  have hf : frameFault (Machine.frame cmd p) = none := hf
  exact applies_of_selects (by simp [defaultRow, rowOf])
    (by simp [rowOf, Sys2Proof.encode, Row.selects, rowWord, txHeader, hf, frame_header])

theorem encode (ign : BitVec 24) : Statement (.encode ign) := fun _ => applies_cmdr ign 0x01
theorem rxFlush (ign : BitVec 24) : Statement (.rxFlush ign) := fun _ => applies_cmdr ign 0x02
theorem close (ign : BitVec 24) : Statement (.close ign) := fun _ => applies_cmdr ign 0x03
theorem softReset (ign : BitVec 24) : Statement (.softReset ign) := fun _ => applies_cmdr ign 0x04
/-- The row of a register applies to every write of that register. -/
theorem applies_regw (n : RegNum) (v : Word) (w : Word) (h : n.setWidth 32 &&& 0x00000FFF#32 = w) :
    (Row.mk .regw w 0x00000FFF none).applies (.port (.regWrite n v)) = true :=
  applies_of_selects (by simp [defaultRow, rowOf]) (by simp [Row.selects, rowWord, writeOf, h])

/-- The row of an event applies to the codes with its selector that are no register access. -/
theorem applies_event (c : Code) (x : Selector) (hn : regNumOf c = none) (h : selectorOf c = some x) :
    (Row.mk .event 0 0 (some x)).applies c = true :=
  applies_of_selects (by simp [defaultRow, rowOf]) (by simp [Row.selects, rowWord, hn, h])

theorem ctrlWrite (v : Word) : Statement (.ctrlWrite v) := fun _ => applies_regw 0x000 v 0x000 (by decide)
theorem evtClear (v : Word) : Statement (.evtClear v) := fun _ => applies_regw 0x003 v 0x003 (by decide)
theorem ienWrite (v : Word) : Statement (.ienWrite v) := fun _ => applies_regw 0x004 v 0x004 (by decide)
theorem snapLatch (v : Word) : Statement (.snapLatch v) := fun _ => applies_regw 0x010 v 0x010 (by decide)
theorem regWrite (n : RegNum) (v : Word) : Statement (.regWrite n v) := fun _ =>
  applies_of_selects (by simp [defaultRow, rowOf])
    (by simp [rowOf, Sys2Proof.encode, Row.selects, rowWord, regNumOf, selectorOf])
theorem regRead (n : RegNum) : Statement (.regRead n) := fun _ =>
  applies_of_selects (by simp [defaultRow, rowOf])
    (by simp [rowOf, Sys2Proof.encode, Row.selects, rowWord, regNumOf, selectorOf])
theorem rxPush (b : Byte) : Statement (.rxPush b) := fun _ => applies_event _ _ rfl rfl
theorem engineStepDrop1 : Statement .engineStepDrop1 := fun _ => applies_event _ _ rfl rfl
theorem engineStepFrame : Statement .engineStepFrame := fun _ => applies_event _ _ rfl rfl
theorem publish (cmd : Byte) (tag : Tag) (p : List Byte) : Statement (.publish cmd tag p) := fun h => by
  simp only [Instr.wellFormed, Bool.and_eq_true, beq_iff_eq] at h
  exact applies_event _ _ rfl (by simp [Sys2Proof.encode, selectorOf, h.2])
theorem txPop : Statement .txPop := fun _ => applies_event _ _ rfl rfl
theorem rxClose : Statement .rxClose := fun _ => applies_event _ _ rfl rfl
theorem hardReset : Statement .hardReset := fun _ => applies_event _ _ rfl rfl

end Sys2Proof.Laws.RowMatch
end

