-- ==== Sys2Proof/Tests/Slice0.lean ====
section
/-! SUPPORT. The model's own tests. Expected values come from spec/95_test_vectors.md (V numbers) or are written
out by hand from the rule named; the witnesses at the end meet the hypotheses of the statements. -/

namespace Sys2Proof.Tests

open Sys2Proof Sys2Proof.Machine

-- One theorem at a time: checked all at once, the tests ask for more threads than the sandbox gives.
set_option Elab.async false

/-! Well-formedness: an ill-formed term for each check. -/

/-- `n` bytes 0xFF. -/
def ones (n : Nat) : List Byte := List.replicate n 0xFF#8

/-- A payload of 255 bytes fits no frame (R90, R99). -/
theorem test_wellFormed_refuses_long_payload :
    (Instr.decState 0 (ones 255)).wellFormed = false ∧ (Instr.decPosdone 0 (ones 255)).wellFormed = false ∧
    (Instr.decPosobst 0 (ones 255)).wellFormed = false ∧ (Instr.decMoveacc 0 (ones 255)).wellFormed = false ∧
    (Instr.decRefack 0 (ones 255)).wellFormed = false ∧ (Instr.decStopack 0 (ones 255)).wellFormed = false ∧
    (Instr.decGripack 0 (ones 255)).wellFormed = false ∧ (Instr.decCmderr 0 (ones 255)).wellFormed = false ∧
    (Instr.decErrack 0 (ones 255)).wellFormed = false ∧ (Instr.decConfig 0 (ones 255)).wellFormed = false ∧
    (Instr.decCmdinfo 0 (ones 255)).wellFormed = false ∧ (Instr.decRaw 0 0x90 (ones 255)).wellFormed = false ∧
    (Instr.frame 0x95 (ones 255)).wellFormed = false ∧
    (Instr.publish 0x92 .refack (ones 255)).wellFormed = false := by decide +kernel

/-- A payload of 254 bytes fits. -/
theorem test_wellFormed_longest_payload :
    (Instr.frame 0x10 (ones 254)).wellFormed = true ∧ (Instr.decRaw 0xFFFF 0x90 (ones 254)).wellFormed = true := by
  decide +kernel

/-- `DEC.RAW` with the command byte of another row (R193). -/
theorem test_wellFormed_refuses_listed_raw : (Instr.decRaw 0x050C 0x95 []).wellFormed = false := by decide

/-- `PUBLISH` with a tag, or a length, that `decode` does not return (R107 (f)). -/
theorem test_wellFormed_refuses_wrong_publish :
    (Instr.publish 0x95 .raw (ones 14)).wellFormed = false ∧ (Instr.publish 0x94 .posdone (ones 3)).wellFormed = false ∧
    (Instr.publish 0x42 .none []).wellFormed = false := by decide

/-- A register write that has a row of its own is not the generic one (R107 (e)). -/
theorem test_wellFormed_refuses_special_writes :
    (Instr.regWrite 0x000 1).wellFormed = false ∧ (Instr.regWrite 0x003 1).wellFormed = false ∧
    (Instr.regWrite 0x004 1).wellFormed = false ∧ (Instr.regWrite 0x010 1).wellFormed = false ∧
    (Instr.regWrite 0x001 1).wellFormed = false ∧ (Instr.regWrite 0x001 0x102).wellFormed = false ∧
    (Instr.regWrite 0x001 3).wellFormed = false ∧ (Instr.regWrite 0x001 4).wellFormed = false := by decide

/-- A reserved `CMDR` value is a generic write (R101). -/
theorem test_wellFormed_reserved_cmdr :
    (Instr.regWrite 0x001 0).wellFormed = true ∧ (Instr.regWrite 0x001 5).wellFormed = true := by decide

/-! Decoding: every constructor from a code written out from its encoding. -/

/-- V5.1. -/
theorem test_decode_state :
    decode (.frameRx [0x05, 0x0C, 0x0F, 0x95, 0x00, 0x00, 0x20, 0x41, 0x00, 0x00, 0x00, 0x00, 0x00, 0x00, 0x80,
      0x3E, 0x81, 0x00, 0x3D, 0x8B]) =
      .ok (.decState 0x050C [0x00, 0x00, 0x20, 0x41, 0x00, 0x00, 0x00, 0x00, 0x00, 0x00, 0x80, 0x3E, 0x81, 0x00]) := by
  decide +kernel
/-- V5.7. -/
theorem test_decode_posdone :
    decode (.frameRx [0x05, 0x0C, 0x05, 0x94, 0x00, 0x00, 0x20, 0x41, 0xE4, 0x47]) =
      .ok (.decPosdone 0x050C [0x00, 0x00, 0x20, 0x41]) := by decide +kernel
/-- V5.10. -/
theorem test_decode_posobst :
    decode (.frameRx [0x05, 0x0C, 0x05, 0x93, 0x00, 0x00, 0x20, 0xC0, 0x91, 0xE7]) =
      .ok (.decPosobst 0x050C [0x00, 0x00, 0x20, 0xC0]) := by decide +kernel
/-- V5.11. -/
theorem test_decode_moveacc :
    decode (.frameRx [0x05, 0x0C, 0x05, 0xB0, 0x00, 0x00, 0xC0, 0x3F, 0x5D, 0xA0]) =
      .ok (.decMoveacc 0x050C [0x00, 0x00, 0xC0, 0x3F]) := by decide +kernel
/-- V4.1k: the first two bytes are not tested. -/
theorem test_decode_refack :
    decode (.frameRx [0xAA, 0x55, 0x03, 0x92, 0x4F, 0x4B, 0xC1, 0xA8]) = .ok (.decRefack 0xAA55 [0x4F, 0x4B]) := by
  decide +kernel
/-- V5.15. -/
theorem test_decode_stopack :
    decode (.frameRx [0x05, 0x0C, 0x01, 0x91, 0x00, 0xF3]) = .ok (.decStopack 0x050C []) := by decide +kernel
/-- V5.16. -/
theorem test_decode_gripack :
    decode (.frameRx [0x05, 0x0C, 0x03, 0xB7, 0x4F, 0x4B, 0xD4, 0x31]) = .ok (.decGripack 0x050C [0x4F, 0x4B]) := by
  decide +kernel
/-- V5.17. -/
theorem test_decode_cmderr :
    decode (.frameRx [0x05, 0x0C, 0x02, 0x88, 0xD9, 0xC9, 0x0A]) = .ok (.decCmderr 0x050C [0xD9]) := by decide +kernel
/-- V5.20. -/
theorem test_decode_errack :
    decode (.frameRx [0x05, 0x0C, 0x03, 0x8B, 0x4F, 0x4B, 0x14, 0x3D]) = .ok (.decErrack 0x050C [0x4F, 0x4B]) := by
  decide +kernel
/-- V5.21. -/
theorem test_decode_config :
    decode (.frameRx [0x05, 0x0C, 0x03, 0x80, 0x01, 0x02, 0x91, 0xA9]) = .ok (.decConfig 0x050C [0x01, 0x02]) := by
  decide +kernel
/-- V5.22. -/
theorem test_decode_cmdinfo :
    decode (.frameRx [0x05, 0x0C, 0x02, 0x8A, 0x08, 0x08, 0x36]) = .ok (.decCmdinfo 0x050C [0x08]) := by decide +kernel
/-- V5.24. -/
theorem test_decode_raw :
    decode (.frameRx [0x05, 0x0C, 0x04, 0x42, 0x01, 0x02, 0x03, 0xA0, 0xD5]) =
      .ok (.decRaw 0x050C 0x42 [0x01, 0x02, 0x03]) := by decide +kernel
/-- V3.7, the source's example. -/
theorem test_decode_frame :
    decode (.frameTx [0x05, 0x0C, 0x02, 0x95, 0x00, 0x01, 0xC0]) = .ok (.frame 0x95 [0x00]) := by decide +kernel
/-- R101: bits 7:0 of the value written to register 0x001 name the operation. -/
theorem test_decode_cmdr :
    decode (.port (.regWrite 0x001 0x00000001)) = .ok (.encode 0) ∧
    decode (.port (.regWrite 0x001 0xABCDEF02)) = .ok (.rxFlush 0xABCDEF) ∧
    decode (.port (.regWrite 0x001 0x00000103)) = .ok (.close 0x000001) ∧
    decode (.port (.regWrite 0x001 0x80000004)) = .ok (.softReset 0x800000) ∧
    decode (.port (.regWrite 0x001 0x00000005)) = .ok (.regWrite 0x001 5) := by decide
/-- R107 (d): the register numbers 0x000, 0x003, 0x004 and 0x010. -/
theorem test_decode_special_registers :
    decode (.port (.regWrite 0x000 1)) = .ok (.ctrlWrite 1) ∧ decode (.port (.regWrite 0x003 2)) = .ok (.evtClear 2) ∧
    decode (.port (.regWrite 0x004 3)) = .ok (.ienWrite 3) ∧
    decode (.port (.regWrite 0x010 0x95)) = .ok (.snapLatch 0x95) := by decide
/-- R107 (e): every other access. -/
theorem test_decode_register_access :
    decode (.port (.regWrite 0x1FD 0x34)) = .ok (.regWrite 0x1FD 0x34) ∧
    decode (.port (.regRead 0x002)) = .ok (.regRead 0x002) := by decide
/-- R107 (f): the events at the interfaces and inside the block. -/
theorem test_decode_events :
    decode (.port (.rxByte 0x05)) = .ok (.rxPush 0x05) ∧ decode (.port .rxClosed) = .ok .rxClose ∧
    decode (.port .txTake) = .ok .txPop ∧ decode (.port .engineDrop1) = .ok .engineStepDrop1 ∧
    decode (.port .engineFrame) = .ok .engineStepFrame ∧ decode (.port .reset) = .ok .hardReset ∧
    decode (.publish 0x88 8 [0xD9]) = .ok (.publish 0x88 .cmderr [0xD9]) := by decide

/-- Codes that stand for no operation, by name: V4.1b, V4.1g, V4.1i, V4.1h, a preamble the encoder never writes,
a tag `decode` does not return, a tag code of no variant. -/
theorem test_decode_rejects :
    decode (.frameRx [0x05, 0x0C, 0x01, 0x91, 0x00]) = .error .short ∧
    decode (.frameRx [0x05, 0x0C, 0x00, 0x15, 0x01, 0x00]) = .error .lengthZero ∧
    decode (.frameRx [0x05, 0x0C, 0xFF, 0x10, 0x00, 0x00]) = .error .lengthMismatch ∧
    decode (.frameRx [0x05, 0x0C, 0x01, 0x91, 0x00, 0xF2]) = .error .badChecksum ∧
    decode (.frameTx [0x07, 0x0C, 0x01, 0x91, 0x01, 0x4B]) = .error .badPreamble ∧
    decode (.publish 0x88 12 [0xD9]) = .error .tagNotDecoded ∧
    decode (.publish 0x88 15 [0xD9]) = .error .tagNotDecoded ∧
    decode (.publish 0x92 5 (ones 255)) = .error .lengthMismatch := by decide +kernel

/-- Words of spec/opcode_table.json (log entry 6). -/
theorem test_decodeTableWord :
    decodeTableWord 8 0x94 = some (.decPosdone 0x0000 [0, 0, 0, 0]) ∧
    decodeTableWord 16 0x28B = some (.decErrack 0x0000 [0]) ∧
    decodeTableWord 32 0x050C0191 = some (.frame 0x91 []) ∧
    decodeTableWord 8 0x03 = some (.close 0) ∧ decodeTableWord 16 0x003 = some (.evtClear 0) ∧
    decodeTableWord 16 0x010 = some (.snapLatch 0) ∧
    decodeTableWord 32 0x050C0342 = some (.frame 0x42 [0, 0]) := by decide +kernel

/-- R107 (a): on V5.23's frame (command 0x90) only the row DEC.RAW applies; on V5.6's, whose length DEC.STATE rejects,
only the row DEC.STATE; on V4.1h, whose trailer is wrong, neither. -/
theorem test_rows_of_candidates :
    (rowOf (.decRaw 0 0 [])).applies (.frameRx [0x05, 0x0C, 0x01, 0x90, 0xC1, 0x33]) = true ∧
    (rowOf (.decState 0 [])).applies (.frameRx [0x05, 0x0C, 0x01, 0x90, 0xC1, 0x33]) = false ∧
    (rowOf (.decState 0 [])).applies (.frameRx [0x05, 0x0C, 0x01, 0x95, 0x01, 0x30]) = true ∧
    (rowOf (.decRaw 0 0 [])).applies (.frameRx [0x05, 0x0C, 0x01, 0x95, 0x01, 0x30]) = false ∧
    (rowOf (.decStopack 0 [])).applies (.frameRx [0x05, 0x0C, 0x01, 0x91, 0x00, 0xF2]) = false ∧
    (rowOf (.decRaw 0 0 [])).applies (.frameRx [0x05, 0x0C, 0x01, 0x91, 0x00, 0xF2]) = false := by decide +kernel

/-- R107 (e), (f): the generic write's row applies to its special cases too; an event's row to its own event only. -/
theorem test_rows_of_accesses :
    (rowOf (.regWrite 0x008 0)).applies (encode (.close 0)) = true ∧ (rowOf (.close 0)).applies (encode (.close 0)) = true ∧
    (rowOf (.regRead 0)).applies (encode (.close 0)) = false ∧ (rowOf .txPop).applies (encode .txPop) = true ∧
    (rowOf .txPop).applies (encode .rxClose) = false := by decide +kernel

/-- The checksum of the ASCII digits 1 to 9 is 0xBB3D (section 2 of the vectors). -/
theorem test_crc16_check_value :
    crc16 [0x31, 0x32, 0x33, 0x34, 0x35, 0x36, 0x37, 0x38, 0x39] = 0xBB3D#16 := by decide +kernel

/-! One step of each operation. -/

/-- Does the outcome go on, in a state that passes the test? -/
def goesOn (o : Host.Outcome State Fault Refusal) (test : State → Bool) : Bool :=
  match o with
  | .next t => test t
  | .fault _ => false
  | .refused _ => false

/-- The state after reset with `RX_EN` = 1 and given buffered bytes. -/
def received (buf : List Byte) : State := { State.reset with rxEn := true, rxbuf := buf }

/-- What section 5 of the vectors lists after one answer: `EVT`, `LOG`, `SNAP_INFO` and `SNAP_F0..F2` of slot `c`. -/
def answered (i : Instr) (c : Byte) (evt : BitVec 9) (logged info f0 f1 f2 : Word) : Bool :=
  goesOn (exec i State.reset) fun t =>
    t.evt == evt && logWord t.log == logged && infoWord (slotAt t.slots c) == info &&
    floatWord (slotAt t.slots c) 0 == f0 && floatWord (slotAt t.slots c) 1 == f1 &&
    floatWord (slotAt t.slots c) 2 == f2

/-- V5.1. -/
theorem test_decState : answered (.decState 0x050C [0x00, 0x00, 0x20, 0x41, 0x00, 0x00, 0x00, 0x00, 0x00, 0x00, 0x80,
    0x3E, 0x81, 0x00]) 0x95 0x001 0x95 0x0E01 0x41200000 0 0x3E800000 = true := by decide +kernel
/-- V5.3: a payload of 13 bytes is a decode error. -/
theorem test_decState_short : answered (.decState 0x050C [0x00, 0x00, 0x20, 0x41, 0x00, 0x00, 0x00, 0x00, 0x00, 0x00,
    0x80, 0x3E, 0x81]) 0x95 0x004 0x950000 0 0 0 0 = true := by decide +kernel
/-- V5.7. -/
theorem test_decPosdone :
    answered (.decPosdone 0x050C [0x00, 0x00, 0x20, 0x41]) 0x94 0x001 0x94 0x0402 0x41200000 0 0 = true := by
  decide +kernel
/-- V5.8. -/
theorem test_decPosdone_short :
    answered (.decPosdone 0x050C [0x00, 0x00, 0x20]) 0x94 0x004 0x940000 0 0 0 0 = true := by decide +kernel
/-- V5.10. -/
theorem test_decPosobst :
    answered (.decPosobst 0x050C [0x00, 0x00, 0x20, 0xC0]) 0x93 0x001 0x93 0x0403 0xC0200000 0 0 = true := by
  decide +kernel
/-- V5.11. -/
theorem test_decMoveacc :
    answered (.decMoveacc 0x050C [0x00, 0x00, 0xC0, 0x3F]) 0xB0 0x001 0xB0 0x0404 0x3FC00000 0 0 = true := by
  decide +kernel
/-- V5.12. -/
theorem test_decMoveacc_short : answered (.decMoveacc 0x050C [0x06]) 0xB0 0x004 0xB00000 0 0 0 0 = true := by
  decide +kernel
/-- V5.13. -/
theorem test_decRefack : answered (.decRefack 0x050C [0x4F, 0x4B]) 0x92 0x001 0x92 0x0205 0 0 0 = true := by
  decide +kernel
/-- V5.15. -/
theorem test_decStopack : answered (.decStopack 0x050C []) 0x91 0x001 0x91 0x0006 0 0 0 = true := by decide +kernel
/-- V5.16. -/
theorem test_decGripack : answered (.decGripack 0x050C [0x4F, 0x4B]) 0xB7 0x001 0xB7 0x0207 0 0 0 = true := by
  decide +kernel
/-- V5.17. -/
theorem test_decCmderr : answered (.decCmderr 0x050C [0xD9]) 0x88 0x011 0x88 0x0108 0 0 0 = true := by decide +kernel
/-- V5.19. -/
theorem test_decCmderr_long : answered (.decCmderr 0x050C [0xD9, 0x00]) 0x88 0x004 0x880000 0 0 0 0 = true := by
  decide +kernel
/-- V5.20. -/
theorem test_decErrack : answered (.decErrack 0x050C [0x4F, 0x4B]) 0x8B 0x001 0x8B 0x0209 0 0 0 = true := by
  decide +kernel
/-- V5.21. -/
theorem test_decConfig : answered (.decConfig 0x050C [0x01, 0x02]) 0x80 0x001 0x80 0x020A 0 0 0 = true := by
  decide +kernel
/-- V5.22. -/
theorem test_decCmdinfo : answered (.decCmdinfo 0x050C [0x08]) 0x8A 0x001 0x8A 0x010B 0 0 0 = true := by
  decide +kernel
/-- V5.23. -/
theorem test_decRaw_estop : answered (.decRaw 0x050C 0x90 []) 0x90 0x009 0x9090 0x000C 0 0 0 = true := by
  decide +kernel
/-- V5.26. -/
theorem test_decRaw_last : answered (.decRaw 0x050C 0xFF [0xFF]) 0xFF 0x009 0xFFFF 0x010C 0 0 0 = true := by
  decide +kernel

/-- V3.9. -/
theorem test_frame : goesOn (exec (.frame 0x42 [0x01, 0x02, 0x03]) State.reset)
    (fun t => t.txq == [0x05, 0x0C, 0x04, 0x42, 0x01, 0x02, 0x03, 0xA0, 0xD5]) = true := by decide +kernel
/-- V3.7: the staged payload, with `STATUS`. -/
theorem test_encode : goesOn (exec (.encode 0) { State.reset with txCmd := 0x95, txPlen := 1 })
    (fun t => t.txq == [0x05, 0x0C, 0x02, 0x95, 0x00, 0x01, 0xC0] && regValue 0x002 t == 0x00700005 && t.evt == 0) =
    true := by decide +kernel
/-- V3.17: closed, busy and `TX_PLEN` = 300 together. -/
theorem test_encode_priority :
    goesOn (exec (.encode 0) { State.reset with closed := true, txq := [0x30], txPlen := 300 })
      (fun t => t.evt == 0x100 && t.txq == [0x30]) = true ∧
    goesOn (exec (.encode 0) { State.reset with txq := [0x30], txPlen := 300 }) (fun t => t.evt == 0x080) = true ∧
    goesOn (exec (.encode 0) { State.reset with txPlen := 255 }) (fun t => t.evt == 0x040 && t.txq == []) = true := by
  decide +kernel
/-- V4.10: `FLUSH` of a stalled buffer. -/
theorem test_rxFlush : goesOn (exec (.rxFlush 0) (received [0x05, 0x0C, 0x03]))
    (fun t => t.rxbuf == [] && t.evt == 0 && regValue 0x002 t == 0x00000004) = true := by decide +kernel
/-- V7.5. -/
theorem test_close : goesOn (exec (.close 0) State.reset)
    (fun t => regValue 0x002 t == 0x00000006 && t.evt == 0x020 && closedOut t) = true := by decide +kernel
/-- V7.5: `CLOSE` again, after `CLR 0x020`, sets nothing. -/
theorem test_close_again : goesOn (exec (.close 0) { State.reset with closed := true }) (fun t => t.evt == 0) = true := by
  decide +kernel
/-- V7.5: `SRESET` of a closed block with flags, an enable and a latched slot. -/
theorem test_softReset : goesOn (exec (.softReset 0)
      { received [0x05] with closed := true, evt := 0x120, ien := 0x1FF, slotSel := 0x95, txPlen := 3 })
    (fun t => t == State.reset) = true := by decide +kernel
/-- V7.2. -/
theorem test_ctrlWrite : goesOn (exec (.ctrlWrite 0xFFFFFFFF) State.reset)
    (fun t => t.rxEn && regValue 0x000 t == 0x00000001) = true := by decide +kernel
/-- V7.4. -/
theorem test_evtClear : goesOn (exec (.evtClear 0x003) { State.reset with evt := 0x00B }) (fun t => t.evt == 0x008) =
    true := by decide +kernel
/-- V7.2, and V7.3: enabling a set flag raises `irq` at once. -/
theorem test_ienWrite :
    goesOn (exec (.ienWrite 0xFFFFFFFF) State.reset) (fun t => regValue 0x004 t == 0x000001FF) = true ∧
    goesOn (exec (.ienWrite 0x023) { State.reset with evt := 0x002 }) (fun t => irq t) = true := by decide +kernel

/-- A slot of V6.1 after two publishes. -/
def slotOfV6 : Slot := { seq := 2, tag := .posdone, plen := 4, data := [(2, 0xA0), (3, 0x41)] }

/-- V6.1: `LATCH 0x94`. -/
theorem test_snapLatch : goesOn (exec (.snapLatch 0x94) { State.reset with slots := [(0x94, slotOfV6)] })
    (fun t => regValue 0x010 t == 0x94 && regValue 0x011 t == 2 && regValue 0x013 t == 0x41A00000) = true := by
  decide +kernel
/-- V6.5: latching an empty slot. -/
theorem test_snapLatch_empty : goesOn (exec (.snapLatch 0x42) { State.reset with slots := [(0x94, slotOfV6)] })
    (fun t => regValue 0x010 t == 0x42 && regValue 0x011 t == 0 && regValue 0x012 t == 0 && regValue 0x200 t == 0) =
    true := by decide +kernel
/-- V7.2: `TX_PLEN` and `TXP[3]`. -/
theorem test_regWrite :
    goesOn (exec (.regWrite 0x009 0x0001000E) State.reset) (fun t => regValue 0x009 t == 0x0000000E) = true ∧
    goesOn (exec (.regWrite 0x103 0x1234) State.reset)
      (fun t => regValue 0x103 t == 0x34 && regValue 0x102 t == 0 && regValue 0x104 t == 0) = true := by decide +kernel
/-- V7.2: writes with no effect. -/
theorem test_regWrite_ignored :
    goesOn (exec (.regWrite 0x002 0xFFFFFFFF) State.reset) (· == State.reset) = true ∧
    goesOn (exec (.regWrite 0x300 1) State.reset) (· == State.reset) = true ∧
    goesOn (exec (.regWrite 0x001 0xFF) State.reset) (· == State.reset) = true := by decide +kernel
/-- V7.1: reset values of the registers. -/
theorem test_regRead : goesOn (exec (.regRead 0x002) State.reset) (fun t => t.hostRd == [0x00000004#32]) = true ∧
    goesOn (exec (.regRead 0xFFF) State.reset) (fun t => t.hostRd == [0#32]) = true := by decide +kernel
/-- V4.12 and V4.11: a byte enters while enabled, and stays with the line otherwise. -/
theorem test_rxPush :
    goesOn (exec (.rxPush 0xF3) (received [0x05, 0x0C, 0x01, 0x91, 0x00]))
      (fun t => t.rxbuf == [0x05, 0x0C, 0x01, 0x91, 0x00, 0xF3] && !rxReady t) = true ∧
    goesOn (exec (.rxPush 0x05) State.reset) (· == State.reset) = true := by decide +kernel
/-- V4.7: six zero bytes. -/
theorem test_engineStepDrop1 : goesOn (exec .engineStepDrop1 (received [0, 0, 0, 0, 0, 0]))
    (fun t => t.rxbuf == [0, 0, 0, 0, 0] && t.evt == 0x002 && logWord t.log == 0) = true := by decide +kernel
/-- V4.4: the first of two frames; the second stays in the buffer. -/
theorem test_engineStepFrame :
    goesOn (exec .engineStepFrame (received [0x05, 0x0C, 0x01, 0x91, 0x00, 0xF3, 0x05, 0x0C]))
      (fun t => t.rxbuf == [0x05, 0x0C] && t.evt == 0x001 && (slotAt t.slots 0x91).seq == 1) = true := by decide +kernel
/-- V5.18: an empty `CMDERR` leaves the buffer and raises `DECERR`. -/
theorem test_engineStepFrame_decerr :
    goesOn (exec .engineStepFrame (received [0x05, 0x0C, 0x01, 0x88, 0xC1, 0x39]))
      (fun t => t.rxbuf == [] && t.evt == 0x004 && logWord t.log == 0x880000 && t.slots == []) = true := by
  decide +kernel
/-- V6.2: a shorter answer hides the longer one before it. -/
theorem test_publish : goesOn (exec (.publish 0x42 .raw [0x09])
      { State.reset with slots := [(0x42, { seq := 1, tag := .raw, plen := 3, data := [(0, 1), (1, 2), (2, 3)] })] })
    (fun t => (slotAt t.slots 0x42).seq == 2 && infoWord (slotAt t.slots 0x42) == 0x010C &&
      dataByte (slotAt t.slots 0x42) 0 == 0x09 && dataByte (slotAt t.slots 0x42) 1 == 0) = true := by decide +kernel
/-- V6.6: the sequence number wraps, and the slot still has a tag. -/
theorem test_publish_seq_wraps : goesOn (exec (.publish 0x91 .stopack [])
      { State.reset with slots := [(0x91, { seq := 0xFFFFFFFF, tag := .stopack, plen := 0, data := [] })] })
    (fun t => (slotAt t.slots 0x91).seq == 0 && (slotAt t.slots 0x91).tag == .stopack) = true := by decide +kernel
/-- V3.16: the line takes the first byte. -/
theorem test_txPop : goesOn (exec .txPop { State.reset with txq := [0x05, 0x0C, 0x01] })
    (fun t => t.txq == [0x0C, 0x01] && t.txwire == [0x05]) = true := by decide +kernel
/-- V7.7. -/
theorem test_rxClose : goesOn (exec .rxClose (received [0x05, 0x0C, 0x03, 0x92]))
    (fun t => regValue 0x002 t == 0x00000406 && t.evt == 0x020) = true := by decide +kernel
/-- R290: the reset input, with a publish stored and bytes queued. -/
theorem test_hardReset : goesOn (exec .hardReset
      { received [0x05] with txq := [0x30], slots := [(0x94, slotOfV6)], snap := slotOfV6 })
    (fun t => t == State.reset) = true := by decide +kernel

/-- A table word placed for the next step runs (log entry 7): `CLOSE`, and `DEC.STOPACK` through the engine. -/
theorem test_withFetchWord :
    goesOn (step (State.reset.withFetchWord 8 0x03)) (fun t => t.closed && t.evt == 0x020) = true ∧
    goesOn (step (State.reset.withFetchWord 8 0x91)) (fun t => (slotAt t.slots 0x91).seq == 1 && t.rxbuf == []) = true ∧
    goesOn (step (State.reset.withFetchWord 32 0x050C0242))
      (fun t => t.txq == frame 0x42 [0x00]) = true := by decide +kernel

/-- Section 5 of the vectors: the status byte 0x81 of V5.1, and floats: 10.0, 2^-149, a NaN. -/
theorem test_typed_fields :
    statusFlag .referenced 0x81 = true ∧ statusFlag .moving 0x81 = false ∧ statusFlag .positionReached 0x81 = true ∧
    floatReading 0x41200000 = .finite false 0xA00000 (-20) ∧ floatReading 0x00000001 = .finite false 1 (-149) ∧
    floatReading 0x7FC00000 = .nan ∧ position .posdone [0x00, 0x00, 0x20, 0xC0] = some 0xC0200000 ∧
    errorCode .cmderr [0xD9] = some 0xD9 := by decide

/-! Witnesses: concrete states and operands that meet the hypotheses of each statement that has any. -/

/-- A slot that holds an answer, one publish before its sequence number wraps. -/
def fullSlot : Slot := { seq := 0xFFFFFFFF, tag := .refack, plen := 254, data := [(0, 0x4F), (253, 0x4B)] }

/-- A block at work: enabled, a frame partly sent, an answer stored and latched, flags set, a byte staged. -/
def working (buf : List Byte) : State :=
  { received buf with
    txq := [0x01, 0x91, 0x00, 0xF3]
    txwire := [0x05, 0x0C, 0x01, 0x95, 0x01, 0x30, 0x05, 0x0C]
    txPlen := 254
    txp := [(253, 0xAA)]
    evt := 0x1FF
    ien := 0x021
    slots := [(0x92, fullSlot)]
    slotSel := 0x92
    snap := fullSlot }

/-- The first frame of V4.1c, and what the scanner drops and waits for. -/
def goodFrame : List Byte := [0x05, 0x0C, 0x01, 0x91, 0x00, 0xF3]

/-- V4.1h: a wrong trailer. -/
def badFrame : List Byte := [0x05, 0x0C, 0x01, 0x91, 0x00, 0xF2]

/-- The longest frame (V3.12 has the same length). -/
def longFrame : List Byte := frame 0x10 (ones 254)

/-- The block at work meets the invariants of R45, with any buffer of at most 260 bytes. -/
theorem working_inv (buf : List Byte) (h : buf.length ≤ 260) : Inv (working buf) where
  rxLen := h
  txq := .inr ⟨0x91, [], by decide, ⟨[0x05, 0x0C], (by decide +kernel : goodFrame = frame 0x91 [])⟩⟩
  txp := by simp only [working, received]; decide
  slots := by simp only [working, received]; decide
  slotOk := forall_byte (P := fun c => SlotOk c (slotAt [(0x92, fullSlot)] c)) (by decide +kernel)
  snap := by simp only [working, received]; decide +kernel

/-- DecodeOfEncode, SelectiveRowsDisjoint: one well-formed operation of each format, the payload as long as it can be. -/
theorem witness_wellFormed :
    (Instr.decState 0xFFFF (ones 14)).wellFormed = true ∧ (Instr.decRaw 0x0000 0x90 (ones 254)).wellFormed = true ∧
    (Instr.frame 0x00 (ones 254)).wellFormed = true ∧ (Instr.softReset 0xFFFFFF).wellFormed = true ∧
    (Instr.snapLatch 0xFFFFFFFF).wellFormed = true ∧ (Instr.regWrite 0xFFF 0).wellFormed = true ∧
    (Instr.publish 0x88 .cmderr [0]).wellFormed = true := by decide +kernel

/-- SelectiveRowsDisjoint: a row with a mask, the default row and the row of an event, each of a format other than
REG, apply to an encoding of their operation; the first two to a received candidate. -/
theorem witness_rows :
    (rowOf (.decState 0xFFFF (ones 14))).format ≠ .reg ∧ (rowOf (.decRaw 0 0x90 [])).format ≠ .reg ∧
    (rowOf (.publish 0x88 .cmderr [0])).format ≠ .reg ∧
    (rowOf (.decState 0xFFFF (ones 14))).applies (encode (.decState 0xFFFF (ones 14))) = true ∧
    (rowOf (.decRaw 0 0x90 [])).applies (encode (.decRaw 0 0x90 [])) = true ∧
    (rowOf (.publish 0x88 .cmderr [0])).applies (encode (.publish 0x88 .cmderr [0])) = true ∧
    encode (.decRaw 0 0x90 []) = .frameRx (candidateOf 0 0x90 []) := by decide +kernel

/-- FrameValidIffResidueZero: a whole candidate that is valid, and one that is not. -/
theorem witness_candidate_length :
    goodFrame.length = total goodFrame ∧ frameValid goodFrame = true ∧
    badFrame.length = total badFrame ∧ frameValid badFrame = false ∧ longFrame.length = total longFrame := by
  decide +kernel

/-- FrameLayout, ScanRoundTrip, GarbageThenFrame, FrameLoadsQueue, PublishStores, PublishThenLatchReadsBack,
AnyLengthAnswersPublish, NewlineStall: the shortest and the longest payload, and an entry of it. -/
theorem witness_payload_length :
    ([] : List Byte).length ≤ 254 ∧ (ones 254).length ≤ 254 ∧ 253 < (ones 254).length := by decide +kernel

/-- ScanLooksOnlyAtCandidate, ScanProgress, EngineDropsOneByte, EngineFrameOutcomes, EngineRunsDecodedFrame: a drop, and
a frame of 6 bytes; and a wait with 0 and with 259 bytes. -/
theorem witness_scan :
    scan1 badFrame = .drop1 ∧ scan1 [0, 0, 0, 0, 0, 0] = .drop1 ∧ scan1 goodFrame = .frame 0x91 [] 6 ∧
    scan1 [] = .needMore ∧ scan1 (longFrame.take 259) = .needMore := by decide +kernel

/-- The same statements at the longest frame. -/
theorem witness_scan_longest : scan1 longFrame = .frame 0x10 (ones 254) 260 := by
  have hp : (ones 254).length ≤ Config.maxPayload := by decide +kernel
  have hlen : longFrame.length = 260 := by decide +kernel
  have ht : total longFrame = 260 := by decide +kernel
  have htake : longFrame.take 260 = longFrame := by rw [← hlen, List.take_length]
  have hv : frameValid longFrame = true := frameValid_candidateOf hp
  have hd : payloadOf longFrame = ones 254 := payloadOf_candidateOf hp
  have h0 : ¬ lenByte longFrame = 0 := by decide +kernel
  have hc : cmdOf longFrame = 0x10 := by decide +kernel
  simp only [scan1, hlen, ht, htake, h0, hv, hd, hc]
  rfl

/-- GarbageThenFrame: one byte that is dropped once 17 bytes are present (V4.5). -/
theorem witness_garbage :
    ∀ i < [0xFF#8].length, scan1 (([0xFF#8] ++ frame 0x91 [] ++ (goodFrame ++ goodFrame)).drop i) = .drop1 := by
  decide +kernel

/-- FixedLengthAnswersPublish, TypedFieldsReadBack and WrongLengthRaisesDecerr: an admitted length, and one beside it, for each clause. -/
theorem witness_answer_lengths :
    Inv (working goodFrame) ∧ (ones 14).length = 14 ∧ (ones 4).length = 4 ∧ (ones 1).length = 1 ∧
    (ones 13).length ≠ 14 ∧ (ones 15).length ≠ 14 ∧ (ones 3).length ≠ 4 ∧ (ones 5).length ≠ 4 ∧
    (ones 0).length ≠ 1 ∧ (ones 2).length ≠ 1 :=
  ⟨working_inv _ (by decide), by decide +kernel⟩

/-- AnyLengthAnswersPublish, UnlistedCodesPublishRaw, PublishStores: the invariants, the longest payload, and the
command codes 0x00, 0x90 and 0xFF outside the eleven. -/
theorem witness_unlisted : Inv (working []) ∧ (ones 254).length ≤ 254 ∧
    ∀ c ∈ [0x00#8, 0x90#8, 0xFF#8],
      c ∉ [0x95#8, 0x94#8, 0x93#8, 0xB0#8, 0x92#8, 0x91#8, 0xB7#8, 0x88#8, 0x8B#8, 0x80#8, 0x8A#8] :=
  ⟨working_inv _ (by decide), by decide +kernel⟩

/-- TxPopTakesFront; and an empty queue for DisabledStepsChangeNothing. -/
theorem witness_txq : (working []).txq = 0x01 :: [0x91, 0x00, 0xF3] ∧ State.reset.txq = [] := by decide

/-- RxPushAppends, LineCloseMarksClosed: with an empty buffer and with 259 bytes. -/
theorem witness_rx_ready :
    rxReady (working []) = true ∧ rxReady (working (longFrame.take 259)) = true := by decide +kernel

/-- DisabledStepsChangeNothing: disabled, closed, a scanner that is not quiescent; no drop; no frame. -/
theorem witness_disabled :
    State.reset.rxEn = false ∧ { working [] with closed := true }.closed = true ∧
    scan1 (working badFrame).rxbuf ≠ .needMore ∧ scan1 (working goodFrame).rxbuf ≠ .drop1 ∧
    ∀ c p t, scan1 (working badFrame).rxbuf ≠ .frame c p t := by
  have h : scan1 (working badFrame).rxbuf = .drop1 := by decide +kernel
  refine ⟨by decide, rfl, by decide +kernel, by decide +kernel, fun c p t => ?_⟩
  simp [h]

/-- EngineFrameOutcomes, EngineRunsDecodedFrame: an answer that decodes, and one that does not (V5.18). -/
theorem witness_engine_frame :
    Inv (working goodFrame) ∧ scan1 (working goodFrame).rxbuf = .frame 0x91 [] 6 ∧ decodeAnswer 0x91 [] = some .stopack ∧
    scan1 (working [0x05, 0x0C, 0x01, 0x88, 0xC1, 0x39]).rxbuf = .frame 0x88 [] 6 ∧ decodeAnswer 0x88 [] = none :=
  ⟨working_inv _ (by decide), by decide +kernel⟩

/-- EngineDropsOneByte. -/
theorem witness_engine_drop :
    (working badFrame).rxbuf = 0x05 :: [0x0C, 0x01, 0x91, 0x00, 0xF2] ∧ scan1 (working badFrame).rxbuf = .drop1 := by
  decide +kernel

/-- ResetKeepsHistories: both resets of the block at work go on. -/
theorem witness_reset : ∃ t, exec .hardReset (working goodFrame) = .next t ∧
    exec (.softReset 0) (working goodFrame) = .next t := ⟨_, rfl, rfl⟩

/-- RegWriteStages: the staging space in canonical form, and its first and last entry; RegisterMapValues,
SnapshotViews: the first and last entry and the last float view; TransmitIgnoresReceive: both operations. -/
theorem witness_staging : Memory.wf (working []).txp ∧ 0 ≤ 253 ∧ 253 ≤ 253 ∧ 0 ≤ 2 ∧ 2 ≤ 2 ∧
    Instr.encode 0 ∈ [Instr.encode 0, Instr.txPop] ∧ Instr.txPop ∈ [Instr.encode 0, Instr.txPop] := by
  exact ⟨by simp only [working, received]; decide, by decide⟩

/-- RegWriteIgnoredElsewhere: numbers beside each writable one. -/
theorem witness_ignored_writes :
    ([0x002#12, 0x005#12, 0x007#12, 0x00A#12, 0x00F#12, 0x011#12, 0x0FF#12, 0x1FE#12, 0x200#12, 0xFFF#12].all fun n =>
      n.toNat ∉ [0x000, 0x001, 0x003, 0x004, 0x008, 0x009, 0x010] ∧ ¬ (0x100 ≤ n.toNat ∧ n.toNat ≤ 0x1FD)) = true := by
  decide

/-- RegWriteIgnoredElsewhere, its second case: reserved values of `CMDR`. -/
theorem witness_reserved_cmdr : (0x001#12).toNat = 0x001 ∧
    ([0x00000000#32, 0x00000105#32, 0xFFFFFFFF#32].all fun v => (v.extractLsb' 0 8).toNat ∉ [1, 2, 3, 4]) = true := by
  decide

/-- StatusRegisterFields: both queues full. -/
theorem witness_status_lengths :
    { working longFrame with txq := longFrame }.rxbuf.length ≤ 260 ∧
    { working longFrame with txq := longFrame }.txq.length ≤ 260 ∧ longFrame.length = 260 := by decide +kernel

/-- RegisterMapValues: numbers that read 0, beside each range. -/
theorem witness_reserved_numbers :
    ([0x001#12, 0x006#12, 0x00F#12, 0x017#12, 0x0FF#12, 0x1FE#12, 0x1FF#12, 0x2FE#12, 0xFFF#12].all fun n =>
      n.toNat ∉ [0x000, 0x002, 0x003, 0x004, 0x005, 0x008, 0x009] ∧ ¬ (0x010 ≤ n.toNat ∧ n.toNat ≤ 0x016) ∧
      ¬ (0x100 ≤ n.toNat ∧ n.toNat ≤ 0x1FD) ∧ ¬ (0x200 ≤ n.toNat ∧ n.toNat ≤ 0x2FD)) = true := by decide

/-- StatusViewByTag: a snapshot for each clause. -/
theorem witness_status_view :
    { fullSlot with tag := .state }.tag = .state ∧ { fullSlot with tag := .cmderr }.tag = .cmderr ∧
    fullSlot.tag ≠ .state ∧ fullSlot.tag ≠ .cmderr := by decide

/-- PublishThenLatchReadsBack: a value with ignored upper bits selects the slot just published to. -/
theorem witness_latch : Inv (working []) ∧ (ones 254).length ≤ 254 ∧ (0xFFFFFF92#32).extractLsb' 0 8 = 0x92#8 :=
  ⟨working_inv _ (by decide), by decide +kernel⟩

/-- WaitSeesEveryPublish: one publish to slot 0x91 among other outcomes, and none to slot 0x94. -/
theorem witness_wait :
    Inv (working []) ∧ publishCount 0x91 [.dropped 0x00, .frame 0x91 [], .frame 0x88 []] = 1 ∧
    publishCount 0x94 [.dropped 0x00, .frame 0x91 [], .frame 0x94 []] = 0 :=
  ⟨working_inv _ (by decide), by decide +kernel⟩

/-- EventsOfOneStep, StepKeepsInvariant, StepKeepsWireWhole, SlotsChangeOnlyByPublish, ClosedStaysUntilReset,
ClosedTakesNothing: a step that publishes, from a state that meets the invariants, open or closed. -/
theorem witness_step :
    Inv (working goodFrame) ∧ (∃ t, step (working goodFrame) = .next t) ∧
    nextInstr (working goodFrame) = some (.engineStepFrame, working goodFrame) ∧ isReset .engineStepFrame = false ∧
    { working goodFrame with closed := true }.closed = true ∧
    ∃ t, step { working goodFrame with closed := true } = .next t := by
  have goes : ∀ t : State, nextInstr t = some (.engineStepFrame, t) → ∃ u, step t = .next u := by
    intro t ht
    simp only [step, ht, exec, execEngineStepFrame]
    split <;> exact ⟨_, rfl⟩
  have h : nextInstr (working goodFrame) = some (.engineStepFrame, working goodFrame) := by decide +kernel
  exact ⟨working_inv _ (by decide), goes _ h, h, rfl, rfl, goes _ (by decide +kernel)⟩

/-- StepKeepsWireWhole: one frame sent, two bytes of the next; and a reset input with an empty queue. -/
theorem witness_wire :
    WireWhole (working []) ∧ WireWhole { State.reset with inputs := [.reset] } ∧
    nextInstr { State.reset with inputs := [.reset] } = some (.hardReset, State.reset) := by
  refine ⟨⟨[(0x95, [])], [0x05, 0x0C], by decide, by decide +kernel, .inr ⟨by decide, 0x91, [], by decide, ?_⟩⟩,
    ⟨[], [], by decide, rfl, .inl ⟨rfl, rfl⟩⟩, by decide +kernel⟩
  decide +kernel

/-- StepRunsDecodedStimulus, first clause: a host write, and a byte of the line while `rx_ready`. -/
theorem witness_stimulus :
    (Instr.evtClear 1).wellFormed = true ∧ encode (.evtClear 1) = .port (.regWrite 0x003 1) ∧
    fromLineRx (.regWrite 0x003 1) = false ∧
    (Instr.rxPush 0x05).wellFormed = true ∧ encode (.rxPush 0x05) = .port (.rxByte 0x05) ∧
    rxReady { working [] with inputs := [.rxByte 0x05] } = true := by decide

/-- StepRunsDecodedStimulus, second clause: two bytes held by a disabled block before a host write. -/
theorem witness_held :
    { State.reset with inputs := [.rxByte 1, .rxClosed, .regWrite 0x000 1] }.inputs =
      .rxByte 1 :: [.rxClosed] ++ .regWrite 0x000 1 :: [] ∧
    (∀ y ∈ Stimulus.rxByte 1 :: [.rxClosed], fromLineRx y = true) ∧ fromLineRx (.regWrite 0x000 1) = false ∧
    rxReady { State.reset with inputs := [.rxByte 1, .rxClosed, .regWrite 0x000 1] } = false ∧
    scan1 State.reset.rxbuf = .needMore ∧ encode (.ctrlWrite 1) = .port (.regWrite 0x000 1) := by decide +kernel

/-- StepRunsDecodedStimulus, last clauses: the engine moves before a held byte, and with no stimulus. -/
theorem witness_engine_turn :
    (∀ y ∈ { working badFrame with inputs := [.rxByte 1] }.inputs.head?, fromLineRx y = true) ∧
    scan1 { working badFrame with inputs := [.rxByte 1] }.rxbuf = .drop1 ∧
    (∀ y ∈ (working goodFrame).inputs.head?, fromLineRx y = true) ∧
    scan1 (working goodFrame).rxbuf = .frame 0x91 [] 6 ∧ (working []).inputs = [] := by decide +kernel

/-- EncodeOfDecode: a code that decodes (V4.1j). -/
theorem witness_decodes : decode (.frameRx [0x07, 0x0C, 0x01, 0x91, 0x01, 0x4B]) = .ok (.decStopack 0x070C []) := by
  decide +kernel

/-- LineDeliversStream: a buffer with half a frame, and the rest of it as the line's bytes. -/
theorem witness_stream :
    { working [0x05, 0x0C] with inputs := rxLine [0x01, 0x91, 0x00, 0xF3] }.rxEn = true ∧
    { working [0x05, 0x0C] with inputs := rxLine [0x01, 0x91, 0x00, 0xF3] }.closed = false ∧
    { working [0x05, 0x0C] with inputs := rxLine [0x01, 0x91, 0x00, 0xF3] }.inputs = rxLine [0x01, 0x91, 0x00, 0xF3] := by
  exact ⟨rfl, rfl, rfl⟩

end Sys2Proof.Tests
end

section
/-! PROOFS. What one step can do to the state, said once, and the statements of 10_state.md derived from it: the
invariants of R45, the closed state (R28), the slot table (R30), reset (R44), the register map (R34), and the order
of the stimuli (log entry 1). -/

namespace Sys2Proof.Machine

/-! The output `rx_ready`. -/

/-- `rx_ready` is 1 exactly while enabled, open and quiescent (R150). -/
theorem rxReady_iff (s : State) :
    rxReady s = true ↔ s.rxEn = true ∧ s.closed = false ∧ scan1 s.rxbuf = .needMore := by
  simp [rxReady, quiescent, and_assoc]

theorem closed_of_rxReady {s : State} (h : rxReady s = true) : s.closed = false := by
  obtain ⟨-, isOpen, -⟩ := (rxReady_iff s).mp h
  exact isOpen

/-- `rx_ready` leaves room for one byte (R45 (b), R150). -/
theorem length_of_rxReady {s : State} (h : rxReady s = true) : s.rxbuf.length ≤ 259 := by
  obtain ⟨-, -, quiet⟩ := (rxReady_iff s).mp h
  exact length_of_needMore quiet

/-! The updates of one step. -/

/-- What the operation `i` of a step can make of the state `s` it acts on: one constructor per update, with the
guard under which the operation performs it. The rows that only stand for parts of the engine's step (log entry 4)
have no constructor of their own. -/
inductive StepEffect (i : Instr) (s : State) : State → Prop
  /-- An operation that is not enabled (log entry 5), an ignored write (R240, R241), CLOSE while closed (R243). -/
  | idle : StepEffect i s s
  | regRead (n : RegNum) : StepEffect i s { s with hostRd := s.hostRd ++ [regValue n s] }
  | rxPush (b : Byte) (ready : rxReady s = true) : StepEffect i s { s with rxbuf := s.rxbuf ++ [b] }
  | drop1 (found : scan1 s.rxbuf = .drop1) : StepEffect i s (raise .cksum { s with rxbuf := s.rxbuf.drop 1 })
  | frame (cmd : Byte) (p : List Byte) (n : Nat) (found : scan1 s.rxbuf = .frame cmd p n) :
      StepEffect i s (answer cmd p { s with rxbuf := s.rxbuf.drop n })
  | txPop (b : Byte) (rest : List Byte) (queued : s.txq = b :: rest) :
      StepEffect i s { s with txq := rest, txwire := s.txwire ++ [b] }
  | markClosed (isOpen : s.closed = false) : StepEffect i s (markClosed s)
  | reset (resets : isReset i = true) : StepEffect i s (resetBlock s)
  /-- A refusal of ENCODE (R132 to R134). -/
  | refuse (e : Event) (refusal : e = .encClosed ∨ e = .encBusy ∨ e = .encLen) : StepEffect i s (raise e s)
  | loadFrame (isOpen : s.closed = false) (drained : s.txq = []) (fits : s.txPlen.toNat ≤ 254) :
      StepEffect i s (loadFrame s.txCmd (memRead s.txp 0 s.txPlen.toNat) s)
  | rxFlush : StepEffect i s (rxFlush s)
  | ctrlWrite (v : Word) : StepEffect i s (ctrlWrite v s)
  | evtClear (m : BitVec 9) : StepEffect i s (evtClear m s)
  | ienWrite (v : Word) : StepEffect i s (ienWrite v s)
  | stageCmd (b : Byte) : StepEffect i s { s with txCmd := b }
  | stagePlen (n : BitVec 16) : StepEffect i s { s with txPlen := n }
  | stageByte (a : Nat) (b : Byte) (inside : a < Config.maxPayload) :
      StepEffect i s { s with txp := writeByte s.txp a b }
  | snapLatch (c : Byte) : StepEffect i s (snapLatch c s)

theorem encodeOp_effect (i : Instr) (s : State) : StepEffect i s (encodeOp s) := by
  rcases encodeOp_cases s with ⟨-, h⟩ | ⟨-, -, h⟩ | ⟨-, -, -, h⟩ | ⟨isOpen, drained, fits, h⟩ <;> rw [h]
  · exact .refuse _ (.inl rfl)
  · exact .refuse _ (.inr (.inl rfl))
  · exact .refuse _ (.inr (.inr rfl))
  · exact .loadFrame isOpen drained fits

theorem closeOp_effect (i : Instr) (s : State) : StepEffect i s (closeOp s) := by
  unfold closeOp
  split
  · exact .idle
  · exact .markClosed (Bool.eq_false_iff.mpr ‹_›)

/-- A write to `CMDR` (R241); the value 0x04 is a reset. -/
theorem cmdrWrite_effect {i : Instr} {v : Word} (hreset : v.extractLsb' 0 8 = 0x04#8 → isReset i = true) (s : State) :
    StepEffect i s (cmdrWrite v s) := by
  rcases cmdrWrite_cases v s with h | h | h | ⟨hv, h⟩ | h <;> rw [h]
  · exact encodeOp_effect i s
  · exact .rxFlush
  · exact closeOp_effect i s
  · exact .reset (hreset hv)
  · exact .idle

theorem regWrite_effect {i : Instr} {n : RegNum} {v : Word}
    (hreset : n = 0x001#12 → v.extractLsb' 0 8 = 0x04#8 → isReset i = true) (s : State) :
    StepEffect i s (regWrite n v s) := by
  rcases regWrite_cases n v s with h | ⟨hn, h⟩ | h | h | h | h | h | ⟨hlo, hhi, h⟩ | h <;> rw [h]
  · exact .ctrlWrite v
  · exact cmdrWrite_effect (hreset hn) s
  · exact .evtClear _
  · exact .ienWrite v
  · exact .stageCmd _
  · exact .stagePlen _
  · exact .snapLatch _
  · exact .stageByte _ _ (by unfold Config.maxPayload; omega)
  · exact .idle

/-- The operation that a register write decodes to is the register write (R107 (e), R240). -/
theorem exec_decodeWrite (n : RegNum) (v : Word) (s : State) : exec (decodeWrite n v) s = .next (regWrite n v s) := by
  unfold decodeWrite
  split_ifs with hn h1 h2 h3 h4 hctrl hevt hien hsel
  · subst hn; simp [exec, execEncode, regWrite, cmdrWrite, h1]
  · subst hn; simp [exec, execRxFlush, regWrite, cmdrWrite, h2]
  · subst hn; simp [exec, execClose, regWrite, cmdrWrite, h3]
  · subst hn; simp [exec, execSoftReset, regWrite, cmdrWrite, h4]
  · rfl
  · subst hctrl; rfl
  · subst hevt; rfl
  · subst hien; rfl
  · subst hsel; rfl
  · rfl

/-- The `CMDR` value 0x04 decodes to a reset (R245). -/
theorem isReset_decodeWrite {n : RegNum} {v : Word} (hn : n = 0x001#12) (hv : v.extractLsb' 0 8 = 0x04#8) :
    isReset (decodeWrite n v) = true := by
  simp [decodeWrite, hn, hv, isReset]

/-- What the operation of a stimulus can do. -/
theorem exec_decodeStimulus_effect (x : Stimulus) (s : State) :
    ∃ t, exec (decodeStimulus x) s = .next t ∧ StepEffect (decodeStimulus x) s t := by
  cases x with
  | regWrite n v => exact ⟨_, exec_decodeWrite n v s, regWrite_effect isReset_decodeWrite s⟩
  | regRead n => exact ⟨_, rfl, .regRead _⟩
  | rxByte b =>
    simp only [decodeStimulus, exec, execRxPush]
    split
    · exact ⟨_, rfl, .rxPush b ‹_›⟩
    · exact ⟨_, rfl, .idle⟩
  | rxClosed =>
    simp only [decodeStimulus, exec, execRxClose]
    split
    · exact ⟨_, rfl, .markClosed (closed_of_rxReady ‹_›)⟩
    · exact ⟨_, rfl, .idle⟩
  | engineDrop1 =>
    simp only [decodeStimulus, exec, execEngineStepDrop1]
    split
    · exact ⟨_, rfl, .drop1 ‹_›⟩
    · exact ⟨_, rfl, .idle⟩
    · exact ⟨_, rfl, .idle⟩
  | engineFrame =>
    simp only [decodeStimulus, exec, execEngineStepFrame]
    split
    · exact ⟨_, rfl, .frame _ _ _ ‹_›⟩
    · exact ⟨_, rfl, .idle⟩
    · exact ⟨_, rfl, .idle⟩
  | txTake =>
    simp only [decodeStimulus, exec, execTxPop]
    split
    · exact ⟨_, rfl, .idle⟩
    · exact ⟨_, rfl, .txPop _ _ ‹_›⟩
  | reset => exact ⟨_, rfl, .reset rfl⟩

/-- Every operation that a step performs is that of a stimulus: the engine's own steps have stimuli too. -/
theorem nextInstr_decodes {s s' : State} {i : Instr} (h : nextInstr s = some (i, s')) :
    (∃ x, i = decodeStimulus x) ∧ s' = { s with inputs := s'.inputs } := by
  rcases nextInstr_cases h with ⟨x, rest, -, rfl, rfl⟩ | ⟨rfl, -, ⟨rfl, -⟩ | ⟨rfl, -⟩⟩
  · exact ⟨⟨x, rfl⟩, rfl⟩
  · exact ⟨⟨.engineDrop1, rfl⟩, rfl⟩
  · exact ⟨⟨.engineFrame, rfl⟩, rfl⟩

/-- Everything a step can do: nothing, or the update of the next operation, on the state without its stimulus. -/
theorem step_effect {s t : State} (h : step s = .next t) :
    t = s ∨ ∃ i rest, nextInstr s = some (i, { s with inputs := rest }) ∧
      StepEffect i { s with inputs := rest } t := by
  rcases step_eq s with ⟨i, s', hnext, hstep⟩ | ⟨-, hstep⟩
  · obtain ⟨⟨x, rfl⟩, hs'⟩ := nextInstr_decodes hnext
    obtain ⟨u, hexec, heffect⟩ := exec_decodeStimulus_effect x s'
    obtain rfl : u = t := Host.Outcome.next.inj ((hstep.trans hexec).symm.trans h)
    exact .inr ⟨_, s'.inputs, hs' ▸ hnext, hs' ▸ heffect⟩
  · exact .inl (Host.Outcome.next.inj (h.symm.trans hstep))

/-! The slots after a publish. -/

/-- The data of every slot is a space in canonical form (R30). -/
theorem Inv.slot_data_wf {s : State} (hs : Inv s) (c : Byte) : Memory.wf (slotAt s.slots c).data := by
  obtain ⟨hwf, -⟩ := hs.slotOk c
  exact hwf

/-- Every slot after a publish (R220, R231). -/
theorem slotAt_publish {s : State} (hs : Inv s) (cmd : Byte) (tag : Tag) (p : List Byte) (c : Byte) :
    slotAt (publish cmd tag p s).slots c =
      if c = cmd then publishedSlot (slotAt s.slots cmd) tag p else slotAt s.slots c := by
  rw [publish_slots, slotAt_setSlot hs.slots]

/-- PUBLISH does what R220 and R221 say, told by reads. -/
theorem publish_published {s : State} (hs : Inv s) (cmd : Byte) (tag : Tag) {p : List Byte}
    (hp : p.length ≤ Config.maxPayload) : Published s (publish cmd tag p s) cmd tag p := by
  have hslot : slotAt (publish cmd tag p s).slots cmd = publishedSlot (slotAt s.slots cmd) tag p := by
    rw [slotAt_publish hs, if_pos rfl]
  have hread := readByte_publishedSlot (hs.slot_data_wf cmd) tag hp
  exact {
    seqNext := by rw [hslot]; rfl
    tagStored := by rw [hslot]; rfl
    plenStored := by rw [hslot, plen_publishedSlot _ _ hp]
    stored := fun i hi => by rw [hslot, hread, if_pos hi]
    kept := fun i hi => by rw [hslot, hread, if_neg (by omega)]
    others := fun c hc => by rw [slotAt_publish hs, if_neg hc]
    flags := publish_evt cmd tag p s
    logged := publish_log cmd tag p s
    unchanged := by cases tag <;> rfl }

/-- The slot that a publish leaves is an answer of its code (R45 (e), (f)). -/
theorem slotOk_publishedSlot {cmd : Byte} {old : Slot} (ho : Memory.wf old.data) {p : List Byte} {tag : Tag}
    (hp : p.length ≤ Config.maxPayload) (hd : decodeAnswer cmd p = some tag) :
    SlotOk cmd (publishedSlot old tag p) := by
  obtain ⟨rfl, hneed⟩ := decodeAnswer_some hd
  have hplen := plen_publishedSlot old (dispatch cmd).1 hp
  refine ⟨memWrite_wf ho (by omega), hplen ▸ hp, fun h => absurd h (dispatch_ne_none cmd), fun _ => ⟨rfl, ?_⟩⟩
  rw [hplen, hneed]

/-! The invariants of R45. -/

theorem memory_nil_wf : Memory.wf [] := ⟨.nil, by simp⟩

theorem slotOk_empty (c : Byte) : SlotOk c Slot.empty :=
  ⟨memory_nil_wf, Nat.zero_le _, fun _ => rfl, fun h => absurd rfl h⟩

theorem txqOk_nil : TxqOk [] := .inl rfl

/-- A suffix of a queue that R45 (d) allows is one. -/
theorem TxqOk.suffix {q r : List Byte} (h : TxqOk q) (hr : r <:+ q) : TxqOk r := by
  rcases h with rfl | ⟨cmd, p, hp, hq⟩
  · exact .inl (List.suffix_nil.mp hr)
  · exact .inr ⟨cmd, p, hp, hr.trans hq⟩

/-- The invariants speak of six fields of the state only. -/
theorem Inv.congr {s t : State} (hs : Inv s) (hrx : t.rxbuf = s.rxbuf := by rfl) (htxq : t.txq = s.txq := by rfl)
    (htxp : t.txp = s.txp := by rfl) (hslots : t.slots = s.slots := by rfl)
    (hsel : t.slotSel = s.slotSel := by rfl) (hsnap : t.snap = s.snap := by rfl) : Inv t where
  rxLen := hrx ▸ hs.rxLen
  txq := htxq ▸ hs.txq
  txp := htxp ▸ hs.txp
  slots := hslots ▸ hs.slots
  slotOk := hslots ▸ hs.slotOk
  snap := hsel ▸ hsnap ▸ hs.snap

theorem Inv.set_rxbuf {s : State} (hs : Inv s) {buf : List Byte} (h : buf.length ≤ Config.rxbufDepth) :
    Inv { s with rxbuf := buf } := { hs with rxLen := h }

/-- Bytes leaving the front of RXBUF (R161, R162) keep the bound. -/
theorem Inv.drop_rxbuf {s : State} (hs : Inv s) (n : Nat) : Inv { s with rxbuf := s.rxbuf.drop n } :=
  hs.set_rxbuf ((List.drop_suffix n s.rxbuf).length_le.trans hs.rxLen)

theorem Inv.set_txq {s : State} (hs : Inv s) {q w : List Byte} (h : TxqOk q) :
    Inv { s with txq := q, txwire := w } := { hs with txq := h }

/-- Publishing an answer of its code's variant keeps the invariants (R220). -/
theorem Inv.publish {s : State} (hs : Inv s) {cmd : Byte} {tag : Tag} {p : List Byte}
    (hp : p.length ≤ Config.maxPayload) (hd : decodeAnswer cmd p = some tag) : Inv (publish cmd tag p s) where
  rxLen := by simpa using hs.rxLen
  txq := by simpa using hs.txq
  txp := by simpa using hs.txp
  slots := by simpa using setSlot_wf hs.slots cmd _
  slotOk c := by
    rw [slotAt_publish hs]
    split
    · subst c; exact slotOk_publishedSlot (hs.slot_data_wf cmd) hp hd
    · exact hs.slotOk c
  snap := by simpa using hs.snap

theorem Inv.answer {s : State} (hs : Inv s) (cmd : Byte) {p : List Byte} (hp : p.length ≤ Config.maxPayload) :
    Inv (answer cmd p s) := by
  rcases answer_cases cmd p s with ⟨-, h⟩ | ⟨tag, hd, h⟩ <;> rw [h]
  · exact hs.congr
  · exact hs.publish hp hd

/-- Settles O52: every space is empty after reset. -/
theorem resetMeetsInvariant : Obligations.ResetMeetsInvariant where
  rxLen := Nat.zero_le _
  txq := txqOk_nil
  txp := memory_nil_wf
  slots := ⟨.nil, by simp⟩
  slotOk := slotOk_empty
  snap := slotOk_empty _

/-- Every update of a step keeps the invariants. -/
theorem StepEffect.inv {i : Instr} {s t : State} (h : StepEffect i s t) (hs : Inv s) : Inv t := by
  cases h with
  | rxPush b ready =>
    refine hs.set_rxbuf ?_
    have := length_of_rxReady ready
    simp only [List.length_append, List.length_singleton, Config.rxbufDepth]
    omega
  | drop1 => exact (hs.drop_rxbuf 1).congr
  | frame cmd p n found =>
    obtain ⟨-, -, -, hp, -⟩ := scan1_frame found
    exact (hs.drop_rxbuf n).answer cmd hp
  | txPop b rest queued => exact hs.set_txq (hs.txq.suffix (queued ▸ List.suffix_cons b rest))
  | reset => exact resetMeetsInvariant.congr
  | loadFrame _ _ fits =>
    exact hs.set_txq (.inr ⟨_, _, (length_memRead ..).trans_le fits, List.suffix_rfl⟩)
  | rxFlush => exact hs.set_rxbuf (Nat.zero_le _)
  | stageByte a b inside => exact { hs with txp := writeByte_wf hs.txp inside b }
  | snapLatch c => exact { hs with snap := hs.slotOk c }
  | idle | regRead | markClosed | refuse | ctrlWrite | evtClear | ienWrite | stageCmd | stagePlen => exact hs.congr

/-- Settles O53, from the invariant of each update a step can make. -/
theorem stepKeepsInvariant : Obligations.StepKeepsInvariant := by
  intro s t hs h
  rcases step_effect h with rfl | ⟨i, rest, -, heffect⟩
  · exact hs
  · exact heffect.inv hs.congr

/-! The closed state (R28). -/

/-- No update but a reset opens a closed block. -/
theorem StepEffect.closed {i : Instr} {s t : State} (h : StepEffect i s t) (hc : s.closed = true) :
    t.closed = true ∨ isReset i = true := by
  cases h with
  | reset resets => exact .inr resets
  | frame cmd p n => exact .inl ((answer_closed ..).trans hc)
  | markClosed => exact .inl rfl
  | _ => exact .inl hc

/-- Settles O55, from what each update does with CLOSED. -/
theorem closedStaysUntilReset : Obligations.ClosedStaysUntilReset := by
  intro s t hc h
  rcases step_effect h with rfl | ⟨i, rest, hnext, heffect⟩
  · exact .inl hc
  · exact (heffect.closed hc).imp_right fun hreset => ⟨i, _, hnext, hreset⟩

/-- While closed, no update puts a byte into RXBUF or a frame into TXQ. -/
theorem StepEffect.queues_suffix_of_closed {i : Instr} {s t : State} (h : StepEffect i s t) (hc : s.closed = true) :
    t.rxbuf <:+ s.rxbuf ∧ t.txq <:+ s.txq := by
  cases h with
  | rxPush b ready => exact absurd (hc.symm.trans (closed_of_rxReady ready)) (by decide)
  | loadFrame isOpen => exact absurd (hc.symm.trans isOpen) (by decide)
  | drop1 => exact ⟨List.drop_suffix _ _, List.suffix_rfl⟩
  | frame cmd p n => simpa using List.drop_suffix n s.rxbuf
  | txPop b rest queued => exact ⟨List.suffix_rfl, queued ▸ List.suffix_cons b rest⟩
  | reset => exact ⟨List.nil_suffix, List.nil_suffix⟩
  | rxFlush => exact ⟨List.nil_suffix, List.suffix_rfl⟩
  | _ => exact ⟨List.suffix_rfl, List.suffix_rfl⟩

/-- Settles O56: the two operations that fill a queue, RX_PUSH and ENCODE, need an open block. -/
theorem closedTakesNothing : Obligations.ClosedTakesNothing := by
  intro s t hc h
  rcases step_effect h with rfl | ⟨i, rest, -, heffect⟩
  · exact ⟨List.suffix_rfl, List.suffix_rfl⟩
  · exact heffect.queues_suffix_of_closed hc

/-! The slot table (R30, R231). -/

/-- An update that changes the slot table is a reset or the publish of the frame found at the front of RXBUF. -/
theorem StepEffect.slots {i : Instr} {s t : State} (h : StepEffect i s t) :
    t.slots = s.slots ∨ isReset i = true ∨
    ∃ cmd p n tag, scan1 s.rxbuf = .frame cmd p n ∧ decodeAnswer cmd p = some tag ∧
      t = publish cmd tag p { s with rxbuf := s.rxbuf.drop n } := by
  cases h with
  | reset resets => exact .inr (.inl resets)
  | frame cmd p n found =>
    rcases answer_cases cmd p { s with rxbuf := s.rxbuf.drop n } with ⟨-, h⟩ | ⟨tag, hd, h⟩
    · exact .inl (by rw [h]; rfl)
    · exact .inr (.inr ⟨cmd, p, n, tag, found, hd, h⟩)
  | _ => exact .inl rfl

/-- Settles O57: the engine's publish is PUBLISH on the state without the frame's bytes and the stimulus. -/
theorem slotsChangeOnlyByPublish : Obligations.SlotsChangeOnlyByPublish := by
  intro s t hs h
  rcases step_effect h with rfl | ⟨i, rest, hnext, heffect⟩
  · exact .inl rfl
  · rcases heffect.slots with hslots | hreset | ⟨cmd, p, n, tag, found, hd, rfl⟩
    · exact .inl hslots
    · exact .inr (.inl ⟨i, _, hnext, hreset⟩)
    · obtain ⟨-, -, -, hp, -⟩ := scan1_frame found
      have hdropped : Inv { s with rxbuf := s.rxbuf.drop n, inputs := rest } := (hs.drop_rxbuf n).congr
      refine .inr (.inr ⟨cmd, p, n, tag, found, hd, publish_rxbuf .., ?_⟩)
      simpa using publish_published hdropped cmd tag hp

/-! Reset (R44, R291). -/

/-- Settles O32: both operations are `resetBlock`, and every space reads as empty after it. -/
theorem resetRestoresEverything : Obligations.ResetRestoresEverything := by
  intro ign s
  have hquiet : quiescent (resetBlock s) = true := by simp [quiescent, scan1, Config.minFrame]
  have hstatus : statusWord (resetBlock s) = 0x00000004#32 := by simp [statusWord, hquiet, bit]
  exact ⟨resetBlock s, rfl, rfl, rfl, rfl, rfl, rfl, fun _ => rfl, rfl, rfl, rfl, rfl,
    fun _ => ⟨rfl, rfl, rfl, fun _ => rfl⟩, rfl, rfl, rfl, rfl, rfl, hstatus, by simp [irq],
    by simp [rxReady], rfl⟩

/-! The register map (R34). -/

/-- The value of two fields put together. -/
theorem toNat_append_fields {m n : Nat} (hi : BitVec m) (lo : BitVec n) :
    (hi ++ lo).toNat = 2 ^ n * hi.toNat + lo.toNat := by
  rw [BitVec.toNat_append, Nat.shiftLeft_eq, Nat.mul_comm, Nat.two_pow_add_eq_or_of_lt lo.isLt]

theorem logWord_toNat (l : Log) :
    (logWord l).toNat = l.lastPub.toNat + 256 * l.lastUnsup.toNat + 65536 * l.lastDecerr.toNat := by
  simp only [logWord, toNat_append_fields, BitVec.toNat_ofNat]
  omega

theorem infoWord_toNat (r : Slot) : (infoWord r).toNat = (tagCode r.tag).toNat + 256 * r.plen.toNat := by
  simp only [infoWord, toNat_append_fields, BitVec.toNat_ofNat]
  omega

/-- A field at bit 0 of a register, with 0 above it. -/
theorem toNat_setWidth_word {w : Nat} (hw : w ≤ 32) (x : BitVec w) : (x.setWidth 32).toNat = x.toNat := by
  rw [BitVec.toNat_setWidth_of_le hw]

/-- The register numbers of the map outside `TXP` and `SNAP_DATA`, without the write-only `CMDR` (R34). -/
def singleRegs : List Nat :=
  [0x000, 0x002, 0x003, 0x004, 0x005, 0x008, 0x009, 0x010, 0x011, 0x012, 0x013, 0x014, 0x015, 0x016]

/-- Every other number is in one of the two byte-indexed ranges, or reads 0. -/
theorem regValue_of_not_single {n : RegNum} (hn : n.toNat ∉ singleRegs) (s : State) :
    regValue n s =
      if 0x100 ≤ n.toNat ∧ n.toNat ≤ 0x1FD then (readByte s.txp (n.toNat - 0x100)).setWidth 32
      else if 0x200 ≤ n.toNat ∧ n.toNat ≤ 0x2FD then (dataByte s.snap (n.toNat - 0x200)).setWidth 32
      else 0#32 := by
  have hne : ∀ m : RegNum, m.toNat ∈ singleRegs → n ≠ m := fun m hm h => hn (h ▸ hm)
  simp (disch := decide) only [regValue, hne, if_false]

/-- `TXP[i]` is the register 0x100 + i (R34). -/
theorem regValue_txp {i : Nat} (hi : i ≤ 253) (s : State) :
    regValue (BitVec.ofNat 12 (0x100 + i)) s = (readByte s.txp i).setWidth 32 := by
  have hn : (BitVec.ofNat 12 (0x100 + i)).toNat = 0x100 + i := by rw [BitVec.toNat_ofNat]; omega
  rw [regValue_of_not_single (by simp only [hn, singleRegs, List.mem_cons, List.not_mem_nil, or_false]; omega),
    hn, if_pos (by omega), Nat.add_sub_cancel_left]

/-- The numbers outside the map are reserved, and `CMDR` is write-only (R34). -/
theorem regValue_reserved {n : RegNum} (hctrl : n.toNat ∉ [0x000, 0x002, 0x003, 0x004, 0x005, 0x008, 0x009])
    (hsnap : ¬ (0x010 ≤ n.toNat ∧ n.toNat ≤ 0x016)) (htxp : ¬ (0x100 ≤ n.toNat ∧ n.toNat ≤ 0x1FD))
    (hdata : ¬ (0x200 ≤ n.toNat ∧ n.toNat ≤ 0x2FD)) (s : State) : regValue n s = 0#32 := by
  have hn : n.toNat ∉ singleRegs := by
    simp only [singleRegs, List.mem_cons, List.not_mem_nil, or_false] at hctrl ⊢
    omega
  rw [regValue_of_not_single hn, if_neg htxp, if_neg hdata]

/-- Settles O42, register by register. -/
theorem registerMapValues : Obligations.RegisterMapValues := by
  intro s
  have hctrl : (regValue 0x000#12 s).toNat = s.rxEn.toNat := by
    cases h : s.rxEn <;> simp [regValue, bit, h]
  refine ⟨hctrl, rfl, toNat_setWidth_word (by decide) s.evt, toNat_setWidth_word (by decide) s.ien,
    logWord_toNat s.log, toNat_setWidth_word (by decide) s.txCmd, toNat_setWidth_word (by decide) s.txPlen,
    toNat_setWidth_word (by decide) s.slotSel, rfl, infoWord_toNat s.snap, fun i hi => ?_,
    fun n hctrl hsnap htxp hdata => regValue_reserved hctrl hsnap htxp hdata s⟩
  rw [regValue_txp hi, toNat_setWidth_word (by decide)]

/-! The order of the stimuli (log entry 1). -/

/-- A register write without a row of its own decodes to the generic row (R107 (e)). -/
theorem decodeWrite_of_not_special {n : RegNum} {v : Word} (h : specialWrite n v = false) :
    decodeWrite n v = .regWrite n v := by
  simp only [specialWrite, cmdrNamed, Bool.or_eq_false_iff, Bool.and_eq_false_imp, beq_eq_false_iff_ne,
    beq_iff_eq] at h
  obtain ⟨⟨⟨⟨hctrl, hevt⟩, hien⟩, hsel⟩, hcmdr⟩ := h
  by_cases hn : n = 0x001#12
  · obtain ⟨⟨⟨h1, h2⟩, h3⟩, h4⟩ := hcmdr hn
    simp only [decodeWrite, hn, if_true, h1, h2, h3, h4, if_false]
  · simp only [decodeWrite, hn, hctrl, hevt, hien, hsel, if_false]

/-- The operation of a port code is the one whose encoding it is (R101, R107 (c) to (f)). -/
theorem decodeStimulus_of_encode {i : Instr} {x : Stimulus} (hi : i.wellFormed = true) (h : encode i = .port x) :
    decodeStimulus x = i := by
  have hcmdr : ∀ (ign : BitVec 24) (op : Byte),
      (cmdrValue ign op).extractLsb' 0 8 = op ∧ (cmdrValue ign op).extractLsb' 8 24 = ign := fun ign op =>
    ⟨BitVec.extractLsb'_append_eq_right, BitVec.extractLsb'_append_eq_left⟩
  cases i with
  | encode ign | rxFlush ign | close ign | softReset ign =>
    obtain rfl := Code.port.inj h
    simp [decodeStimulus, decodeWrite, hcmdr]
  | regWrite n v =>
    obtain rfl := Code.port.inj h
    exact decodeWrite_of_not_special (by simpa only [Instr.wellFormed, Bool.not_eq_true'] using hi)
  | ctrlWrite | evtClear | ienWrite | snapLatch | regRead | rxPush | engineStepDrop1 | engineStepFrame | txPop | rxClose
  | hardReset =>
    obtain rfl := Code.port.inj h
    rfl
  | _ => cases h

/-- A stimulus that the block can take is the next operation's. -/
theorem step_of_nextStimulus {s : State} {i : Instr} {x : Stimulus} {rest : List Stimulus}
    (hi : i.wellFormed = true) (henc : encode i = .port x) (hx : nextStimulus s = some (x, rest)) :
    step s = exec i { s with inputs := rest } := by
  simp only [step, nextInstr, hx, decodeStimulus_of_encode hi henc]

/-- What the line holds is passed over, in its order (log entry 1). -/
theorem firstOther_held {held : List Stimulus} (hheld : ∀ y ∈ held, fromLineRx y = true) {x : Stimulus}
    (hx : fromLineRx x = false) (rest : List Stimulus) :
    firstOther (held ++ x :: rest) = some (x, held ++ rest) := by
  induction held with
  | nil => simp [firstOther, hx]
  | cons y ys ih =>
    obtain ⟨hy, hys⟩ := List.forall_mem_cons.mp hheld
    simp [firstOther, hy, ih hys]

/-- While the scanner is not quiescent, the receive line is held, so it presents nothing (R150). -/
theorem nextStimulus_of_line_first {s : State} (hline : ∀ y ∈ s.inputs.head?, fromLineRx y = true)
    (hbusy : scan1 s.rxbuf ≠ .needMore) : nextStimulus s = none := by
  have hquiet : quiescent s = false := by simp [quiescent, hbusy]
  cases hin : s.inputs with
  | nil => simp [nextStimulus, hin]
  | cons y ys =>
    have hy : fromLineRx y = true := hline y (by simp [hin])
    simp [nextStimulus, hin, hy, rxReady, hquiet]

/-- Settles O50, from what `nextStimulus` answers in each case. -/
theorem stepRunsDecodedStimulus : Obligations.StepRunsDecodedStimulus := by
  intro s
  refine ⟨fun i x rest hi henc hin htaken => ?_, fun i x rest held y hi henc hin hheld hx hready hquiet => ?_,
    fun hline => ⟨fun hscan => ?_, fun c p n hscan => ?_⟩, fun hin hscan => ?_⟩
  · have hnext : nextStimulus s = some (x, rest) := by
      rcases htaken with h | h <;> simp [nextStimulus, hin, h]
    exact step_of_nextStimulus hi henc hnext
  · have hnext : nextStimulus s = some (x, y :: held ++ rest) := by
      rw [← firstOther_held hheld hx rest]
      simp [nextStimulus, hin, hheld y, hready, quiescent, hquiet]
    exact step_of_nextStimulus hi henc hnext
  · have hnext := nextStimulus_of_line_first hline (by simp [hscan])
    simp [step, nextInstr, hnext, engineInstr, hscan]
  · have hnext := nextStimulus_of_line_first hline (by simp [hscan])
    simp [step, nextInstr, hnext, engineInstr, hscan]
  · simp [step, nextInstr, nextStimulus, hin, engineInstr, hscan]

end Sys2Proof.Machine
end

section
/-! PROOFS. The statements of 20_memory.md: transmit and receive are independent (R72), and a stream that the line
delivers is scanned and answered as `scan_all` says (R71, R163, R164). -/

namespace Sys2Proof.Machine

/-! Transmit and receive (R72, R138). -/

/-- The state with another receive side: RX_EN, RXBUF, the slots, the snapshot and LOG. -/
def setReceive (en : Bool) (buf : List Byte) (table : SlotTable) (r : Slot) (l : Log) (s : State) : State :=
  { s with rxEn := en, rxbuf := buf, slots := table, snap := r, log := l }

/-- ENCODE commutes with any change of the receive side: its conditions read none of it, and the three refusals
record nothing in LOG (R131, R262). -/
theorem encodeOp_setReceive (en : Bool) (buf : List Byte) (table : SlotTable) (r : Slot) (l : Log) (s : State) :
    encodeOp (setReceive en buf table r l s) = setReceive en buf table r l (encodeOp s) := by
  simp only [encodeOp, apply_ite (setReceive en buf table r l)]
  rfl

/-- Both transmit operations commute with any change of the receive side. -/
theorem exec_transmit_setReceive {ign : BitVec 24} {i : Instr} (hi : i ∈ [Instr.encode ign, Instr.txPop])
    (s : State) :
    ∃ t, exec i s = .next t ∧ ∀ en buf table r l,
      exec i (setReceive en buf table r l s) = .next (setReceive en buf table r l t) := by
  simp only [List.mem_cons, List.not_mem_nil, or_false] at hi
  rcases hi with rfl | rfl
  · exact ⟨encodeOp s, rfl, fun en buf table r l =>
      congrArg Host.Outcome.next (encodeOp_setReceive en buf table r l s)⟩
  · cases hq : s.txq with
    | nil => exact ⟨s, by simp [exec, execTxPop, hq], fun _ _ _ _ _ => by simp [exec, execTxPop, setReceive, hq]⟩
    | cons b rest =>
      exact ⟨{ s with txq := rest, txwire := s.txwire ++ [b] }, by simp [exec, execTxPop, hq],
        fun _ _ _ _ _ => by simp [exec, execTxPop, setReceive, hq]⟩

/-- Settles O58: the transmit operations commute with changing the receive side, and the change that puts back what
`s` itself holds shows that they keep it. -/
theorem transmitIgnoresReceive : Obligations.TransmitIgnoresReceive := by
  intro ign s en buf table r l i hi
  obtain ⟨t, hrun, hcommutes⟩ := exec_transmit_setReceive hi s
  have hself : t = setReceive s.rxEn s.rxbuf s.slots s.snap s.log t :=
    Host.Outcome.next.inj (hrun.symm.trans (hcommutes s.rxEn s.rxbuf s.slots s.snap s.log))
  exact ⟨t, setReceive en buf table r l t, hrun, hcommutes en buf table r l, rfl, rfl, rfl,
    (congrArg State.rxEn hself :), (congrArg State.rxbuf hself :), (congrArg State.slots hself :),
    (congrArg State.snap hself :), (congrArg State.log hself :)⟩

/-! One attempt of `scan_all` at a time (R163, R164). -/

/-- Once the scanner has an answer, the bytes behind the candidate do not change it (R151). -/
theorem scan1_append {buf : List Byte} (h : scan1 buf ≠ .needMore) (rest : List Byte) :
    scan1 (buf ++ rest) = scan1 buf := by
  have hwhole : 6 ≤ buf.length ∧ total buf ≤ buf.length := by
    rcases scan1_cases buf with ⟨hwait, -⟩ | ⟨h6, htotal, -⟩
    · exact absurd hwait h
    · exact ⟨h6, htotal⟩
  obtain ⟨h6, htotal⟩ := hwhole
  have h3 : 3 ≤ buf.length := by omega
  simp only [scan1, Config.minFrame, List.length_append, total_append buf rest h3, lenByte_append buf rest h3,
    List.take_append_of_le_length htotal, show ¬ buf.length + rest.length < 6 by omega,
    show ¬ buf.length < 6 by omega, show ¬ buf.length + rest.length < total buf by omega,
    show ¬ buf.length < total buf by omega, if_false]

theorem scanSteps_of_needMore {buf : List Byte} (h : scan1 buf = .needMore) (k : Nat) :
    scanSteps k buf = ([], buf) := by
  cases k with
  | zero => rfl
  | succ k => simp only [scanSteps, h]

theorem scanSteps_of_drop1 {buf : List Byte} (h : scan1 buf = .drop1) (k : Nat) :
    scanSteps (k + 1) buf =
      (.dropped (buf.getD 0 0#8) :: (scanSteps k (buf.drop 1)).1, (scanSteps k (buf.drop 1)).2) := by
  simp only [scanSteps, h]

theorem scanSteps_of_frame {buf : List Byte} {cmd : Byte} {p : List Byte} {n : Nat}
    (h : scan1 buf = .frame cmd p n) (k : Nat) :
    scanSteps (k + 1) buf = (.frame cmd p :: (scanSteps k (buf.drop n)).1, (scanSteps k (buf.drop n)).2) := by
  simp only [scanSteps, h]

/-- What a drop leaves is shorter (R163). -/
theorem length_drop_of_drop1 {buf : List Byte} (h : scan1 buf = .drop1) : (buf.drop 1).length < buf.length := by
  have := length_of_drop1 h
  rw [List.length_drop]
  omega

/-- What a frame leaves is shorter (R163). -/
theorem length_drop_of_frame {buf : List Byte} {cmd : Byte} {p : List Byte} {n : Nat}
    (h : scan1 buf = .frame cmd p n) : (buf.drop n).length < buf.length := by
  obtain ⟨-, hn, hp, -⟩ := scan1_frame h
  rw [List.length_drop]
  omega

/-- An attempt more than the bytes finds nothing new. -/
theorem scanSteps_succ {k : Nat} {buf : List Byte} (hk : buf.length ≤ k) :
    scanSteps (k + 1) buf = scanSteps k buf := by
  induction k generalizing buf with
  | zero =>
    obtain rfl := List.length_eq_zero_iff.mp (Nat.le_zero.mp hk)
    rfl
  | succ k ih =>
    cases hs : scan1 buf with
    | needMore => rw [scanSteps_of_needMore hs, scanSteps_of_needMore hs]
    | drop1 =>
      have hlen := length_drop_of_drop1 hs
      rw [scanSteps_of_drop1 hs, scanSteps_of_drop1 hs, ih (by omega)]
    | frame cmd p n =>
      have hlen := length_drop_of_frame hs
      rw [scanSteps_of_frame hs, scanSteps_of_frame hs, ih (by omega)]

/-- `|buf|` attempts are enough (R163). -/
theorem scanSteps_eq_scanAll {k : Nat} {buf : List Byte} (hk : buf.length ≤ k) : scanSteps k buf = scanAll buf := by
  induction k, hk using Nat.le_induction with
  | base => rfl
  | succ k hk ih => rw [scanSteps_succ hk, ih]

theorem scanAll_of_needMore {buf : List Byte} (h : scan1 buf = .needMore) : scanAll buf = ([], buf) :=
  scanSteps_of_needMore h _

/-- `scan_all` goes on behind a dropped byte (R164). -/
theorem scanAll_of_drop1 {buf : List Byte} (h : scan1 buf = .drop1) :
    scanAll buf = (.dropped (buf.getD 0 0#8) :: (scanAll (buf.drop 1)).1, (scanAll (buf.drop 1)).2) := by
  have hlen := length_drop_of_drop1 h
  obtain ⟨k, hk⟩ := Nat.exists_eq_add_one_of_ne_zero (show buf.length ≠ 0 by omega)
  rw [scanAll, hk, scanSteps_of_drop1 h, scanSteps_eq_scanAll (by omega)]

/-- `scan_all` goes on behind a frame (R164). -/
theorem scanAll_of_frame {buf : List Byte} {cmd : Byte} {p : List Byte} {n : Nat} (h : scan1 buf = .frame cmd p n) :
    scanAll buf = (.frame cmd p :: (scanAll (buf.drop n)).1, (scanAll (buf.drop n)).2) := by
  have hlen := length_drop_of_frame h
  obtain ⟨k, hk⟩ := Nat.exists_eq_add_one_of_ne_zero (show buf.length ≠ 0 by omega)
  rw [scanAll, hk, scanSteps_of_frame h, scanSteps_eq_scanAll (by omega)]

/-! The state that a delivered stream leaves. -/

/-- The state with other bytes in RXBUF and other stimuli pending: the part of it that outcomes do not touch. -/
def setLine (buf : List Byte) (ins : List Stimulus) (s : State) : State := { s with rxbuf := buf, inputs := ins }

/-- Answering a frame commutes with what happens at the line. -/
theorem answer_setLine (cmd : Byte) (p buf : List Byte) (ins : List Stimulus) (s : State) :
    answer cmd p (setLine buf ins s) = setLine buf ins (answer cmd p s) := by
  unfold answer
  cases decodeAnswer cmd p with
  | none => rfl
  | some tag => cases tag <;> rfl

theorem applyOutcomes_setLine (outs : List ScanOutcome) (buf : List Byte) (ins : List Stimulus) (s : State) :
    applyOutcomes outs (setLine buf ins s) = setLine buf ins (applyOutcomes outs s) := by
  induction outs generalizing s with
  | nil => rfl
  | cons o outs ih =>
    cases o with
    | dropped b => exact ih (raise .cksum s)
    | frame cmd p => rw [applyOutcomes, answer_setLine, ih, applyOutcomes]

/-- `s` after the outcomes of `scan_all` on RXBUF and the bytes of a stream, none of them left at the line. -/
def delivered (s : State) (bytes : List Byte) : State :=
  setLine (scanAll (s.rxbuf ++ bytes)).2 [] (applyOutcomes (scanAll (s.rxbuf ++ bytes)).1 s)

theorem delivered_setLine (buf bytes : List Byte) (ins : List Stimulus) (s : State) :
    delivered (setLine buf ins s) bytes =
      setLine (scanAll (buf ++ bytes)).2 [] (applyOutcomes (scanAll (buf ++ bytes)).1 s) := by
  rw [delivered, applyOutcomes_setLine]
  rfl

/-- With no stream and nothing to scan, nothing happens. -/
theorem delivered_of_needMore {s : State} (hin : s.inputs = []) (hs : scan1 s.rxbuf = .needMore) :
    delivered s [] = s := by
  rw [delivered, List.append_nil, scanAll_of_needMore hs, applyOutcomes, setLine, ← hin]

/-- A byte that enters RXBUF was the first of the stream. -/
theorem delivered_push (s : State) (b : Byte) (bytes : List Byte) (ins : List Stimulus) :
    delivered (setLine (s.rxbuf ++ [b]) ins s) bytes = delivered s (b :: bytes) := by
  rw [delivered_setLine, List.append_assoc, List.singleton_append, delivered]

/-- The engine's drop is the first outcome of `scan_all` (R161, R164). -/
theorem delivered_drop1 {s : State} (hs : scan1 s.rxbuf = .drop1) (bytes : List Byte) :
    delivered (raise .cksum { s with rxbuf := s.rxbuf.drop 1 }) bytes = delivered s bytes := by
  have hall := scanAll_of_drop1 ((scan1_append (by simp [hs]) bytes).trans hs)
  have hlen := length_of_drop1 hs
  rw [List.drop_append_of_le_length (by omega)] at hall
  calc delivered (raise .cksum { s with rxbuf := s.rxbuf.drop 1 }) bytes
    _ = delivered (setLine (s.rxbuf.drop 1) s.inputs (raise .cksum s)) bytes := rfl
    _ = delivered s bytes := by rw [delivered_setLine, delivered, hall, applyOutcomes]

/-- The engine's answer to a frame is the first outcome of `scan_all` (R162, R164). -/
theorem delivered_frame {s : State} {cmd : Byte} {p : List Byte} {n : Nat} (hs : scan1 s.rxbuf = .frame cmd p n)
    (bytes : List Byte) :
    delivered (answer cmd p { s with rxbuf := s.rxbuf.drop n }) bytes = delivered s bytes := by
  have hall := scanAll_of_frame ((scan1_append (by simp [hs]) bytes).trans hs)
  obtain ⟨-, hn, -⟩ := scan1_frame hs
  rw [List.drop_append_of_le_length hn] at hall
  calc delivered (answer cmd p { s with rxbuf := s.rxbuf.drop n }) bytes
    _ = delivered (answer cmd p (setLine (s.rxbuf.drop n) s.inputs s)) bytes := rfl
    _ = delivered s bytes := by rw [answer_setLine, delivered_setLine, delivered, hall, applyOutcomes]

/-! The run that delivers a stream (R71). -/

/-- The block takes bytes, and the line offers `bytes` and nothing else is pending. -/
structure Offered (s : State) (bytes : List Byte) : Prop where
  enabled : s.rxEn = true
  isOpen : s.closed = false
  pending : s.inputs = rxLine bytes

/-- A bound on the steps still to come: a byte in RXBUF has to leave it, one at the line to enter it as well. -/
def stepsLeft (s : State) (bytes : List Byte) : Nat := s.rxbuf.length + 2 * bytes.length

/-- The receive line is the only agent. -/
theorem Offered.head_line {s : State} {bytes : List Byte} (h : Offered s bytes) :
    ∀ y ∈ s.inputs.head?, fromLineRx y = true := by
  rw [h.pending]
  cases bytes <;> simp [rxLine, fromLineRx]

/-- While the stream or the scanner has something left, a step brings the end nearer and does not change what it
will be. -/
theorem Offered.step {s : State} {bytes : List Byte} (h : Offered s bytes)
    (hleft : scan1 s.rxbuf = .needMore → bytes ≠ []) :
    ∃ t rest, Machine.step s = .next t ∧ Offered t rest ∧ stepsLeft t rest < stepsLeft s bytes ∧
      delivered t rest = delivered s bytes := by
  obtain ⟨htaken, -, hengine, -⟩ := stepRunsDecodedStimulus s
  obtain ⟨hdrop, hframe⟩ := hengine h.head_line
  cases hs : scan1 s.rxbuf with
  | needMore =>
    obtain ⟨b, rest, rfl⟩ := List.exists_cons_of_ne_nil (hleft hs)
    have hready : rxReady s = true := (rxReady_iff s).mpr ⟨h.enabled, h.isOpen, hs⟩
    have hexec : exec (.rxPush b) { s with inputs := rxLine rest } =
        .next (setLine (s.rxbuf ++ [b]) (rxLine rest) s) := if_pos hready
    refine ⟨_, rest, (htaken (.rxPush b) _ _ rfl rfl h.pending (.inr hready)).trans hexec,
      ⟨h.enabled, h.isOpen, rfl⟩, ?_, delivered_push s b rest _⟩
    simp only [stepsLeft, setLine, List.length_append, List.length_cons, List.length_nil]
    omega
  | drop1 =>
    have hexec : exec .engineStepDrop1 s = .next (raise .cksum { s with rxbuf := s.rxbuf.drop 1 }) := by
      simp only [exec, execEngineStepDrop1, hs]
    exact ⟨_, bytes, (hdrop hs).trans hexec, ⟨h.enabled, h.isOpen, h.pending⟩,
      Nat.add_lt_add_right (length_drop_of_drop1 hs) _, delivered_drop1 hs bytes⟩
  | frame cmd p n =>
    have hexec : exec .engineStepFrame s = .next (answer cmd p { s with rxbuf := s.rxbuf.drop n }) := by
      simp only [exec, execEngineStepFrame, hs]
    refine ⟨_, bytes, (hframe cmd p n hs).trans hexec, ⟨?_, ?_, ?_⟩, ?_, delivered_frame hs bytes⟩
    · simpa using h.enabled
    · simpa using h.isOpen
    · simpa using h.pending
    · simpa only [stepsLeft, answer_rxbuf] using Nat.add_lt_add_right (length_drop_of_frame hs) _

theorem run_succ_of_step {s t : State} (h : step s = .next t) (k : Nat) :
    Host.Core.run core (k + 1) s = Host.Core.run core k t := by
  simp only [Host.Core.run, core, h]

/-- A block at which nothing is pending and nothing to scan stays as it is, however long it runs. -/
theorem run_of_idle {s : State} (h : step s = .next s) (k : Nat) : Host.Core.run core k s = .next s := by
  induction k with
  | zero => rfl
  | succ k ih => rw [run_succ_of_step h, ih]

/-- Enough steps deliver the stream: by induction on their number, until nothing is left and the block is idle. -/
theorem Offered.run {k : Nat} {s : State} {bytes : List Byte} (h : Offered s bytes) (hk : stepsLeft s bytes ≤ k) :
    Host.Core.run core k s = .next (delivered s bytes) := by
  by_cases hleft : scan1 s.rxbuf = .needMore → bytes ≠ []
  · obtain ⟨t, rest, hstep, ht, hless, hsame⟩ := h.step hleft
    obtain ⟨j, rfl⟩ := Nat.exists_eq_add_one_of_ne_zero (show k ≠ 0 by omega)
    rw [run_succ_of_step hstep, ht.run (by omega), hsame]
  · obtain ⟨hs, rfl⟩ : scan1 s.rxbuf = .needMore ∧ bytes = [] := by simpa using hleft
    obtain ⟨-, -, -, hidle⟩ := stepRunsDecodedStimulus s
    rw [run_of_idle (hidle h.pending hs), delivered_of_needMore h.pending hs]
termination_by k

/-- Settles O59: each step brings the end nearer and keeps what it will be. -/
theorem lineDeliversStream : Obligations.LineDeliversStream :=
  fun _ _ enabled isOpen pending => Offered.run ⟨enabled, isOpen, pending⟩ le_rfl

end Sys2Proof.Machine
end

section
/-! PROOFS. The encodings of 30_encoding.md: what a code decodes to, and how it is written again (R90, R100, R101,
R107). -/

namespace Sys2Proof.Machine

/-! Register writes (R107 (c) to (e)). -/

/-- Settles O38: both sides are the register write. -/
theorem regWriteIsItsOperation : Obligations.RegWriteIsItsOperation :=
  fun n v s => (exec_decodeWrite n v s).symm

/-- A word is its bits 31:8 followed by its low byte: what R101 ignores is not lost. -/
theorem cmdrValue_of_low_byte {v : Word} {op : Byte} (h : v.extractLsb' 0 8 = op) :
    cmdrValue (v.extractLsb' 8 24) op = v := by
  subst h
  refine BitVec.eq_of_getLsbD_eq fun i hi => ?_
  rw [cmdrValue, BitVec.getLsbD_append, BitVec.getLsbD_extractLsb', BitVec.getLsbD_extractLsb']
  by_cases h8 : i < 8
  · simp [h8]
  · simp [h8, show i - 8 < 24 by omega, show 8 + (i - 8) = i by omega]

/-- A register write is the encoding of the operation it decodes to, which is well-formed (R101, R107 (c) to (e)). -/
theorem decodeWrite_encoded (n : RegNum) (v : Word) :
    (decodeWrite n v).wellFormed = true ∧ encode (decodeWrite n v) = .port (.regWrite n v) := by
  unfold decodeWrite
  split_ifs with hn h1 h2 h3 h4 hctrl hevt hien hsel
  · exact ⟨rfl, by rw [encode, cmdrCode, cmdrValue_of_low_byte h1, hn]⟩
  · exact ⟨rfl, by rw [encode, cmdrCode, cmdrValue_of_low_byte h2, hn]⟩
  · exact ⟨rfl, by rw [encode, cmdrCode, cmdrValue_of_low_byte h3, hn]⟩
  · exact ⟨rfl, by rw [encode, cmdrCode, cmdrValue_of_low_byte h4, hn]⟩
  · exact ⟨by simp [Instr.wellFormed, specialWrite, cmdrNamed, hn, h1, h2, h3, h4], rfl⟩
  · exact ⟨rfl, by rw [hctrl]; rfl⟩
  · exact ⟨rfl, by rw [hevt]; rfl⟩
  · exact ⟨rfl, by rw [hien]; rfl⟩
  · exact ⟨rfl, by rw [hsel]; rfl⟩
  · exact ⟨by simp [Instr.wellFormed, specialWrite, hn, hctrl, hevt, hien, hsel], rfl⟩

theorem decodeStimulus_encoded (x : Stimulus) :
    (decodeStimulus x).wellFormed = true ∧ encode (decodeStimulus x) = .port x := by
  cases x with
  | regWrite n v => exact decodeWrite_encoded n v
  | _ => exact ⟨rfl, rfl⟩

/-! Received candidates (R107 (a)). -/

/-- Every command byte is listed in the dispatch table or decodes as RAW (R181, R193). -/
theorem listed_or_raw (c : Byte) : c ∈ dispatchTable.map Prod.fst ∨ (dispatch c).1 = .raw := by
  refine or_iff_not_imp_left.mpr fun unlisted => ?_
  have hlookup : dispatchTable.lookup c = none :=
    List.lookup_eq_none_iff.mpr fun row hrow => bne_iff_ne.mpr fun hc => unlisted (hc ▸ List.mem_map_of_mem hrow)
  rw [dispatch, hlookup]
  rfl

/-- The DEC operation that a command byte selects, with its operands (R107 (a), R181). -/
def rxInstr (pre : BitVec 16) (cmd : Byte) (p : List Byte) : Instr :=
  match (dispatch cmd).1 with
  | .state => .decState pre p
  | .posdone => .decPosdone pre p
  | .posobst => .decPosobst pre p
  | .moveacc => .decMoveacc pre p
  | .refack => .decRefack pre p
  | .stopack => .decStopack pre p
  | .gripack => .decGripack pre p
  | .cmderr => .decCmderr pre p
  | .errack => .decErrack pre p
  | .config => .decConfig pre p
  | .cmdinfo => .decCmdinfo pre p
  | .raw => .decRaw pre cmd p
  | .none => .decRaw pre cmd p

theorem decodeCandidate_eq (cand : List Byte) :
    decodeCandidate cand = rxInstr (preOf cand) (cmdOf cand) (payloadOf cand) := rfl

theorem rxInstr_of_raw {cmd : Byte} (h : (dispatch cmd).1 = .raw) (pre : BitVec 16) (p : List Byte) :
    rxInstr pre cmd p = .decRaw pre cmd p := by
  simp only [rxInstr, h]

/-- A property of the DEC operations, row by row: the eleven listed command bytes, and RAW for the others. -/
theorem rxInstr_rows {P : Byte → Instr → Prop} {pre : BitVec 16} {p : List Byte}
    (state : P 0x95 (.decState pre p)) (posdone : P 0x94 (.decPosdone pre p)) (posobst : P 0x93 (.decPosobst pre p))
    (moveacc : P 0xB0 (.decMoveacc pre p)) (refack : P 0x92 (.decRefack pre p)) (stopack : P 0x91 (.decStopack pre p))
    (gripack : P 0xB7 (.decGripack pre p)) (cmderr : P 0x88 (.decCmderr pre p)) (errack : P 0x8B (.decErrack pre p))
    (config : P 0x80 (.decConfig pre p)) (cmdinfo : P 0x8A (.decCmdinfo pre p))
    (raw : ∀ c, (dispatch c).1 = .raw → P c (.decRaw pre c p)) (c : Byte) : P c (rxInstr pre c p) := by
  rcases listed_or_raw c with listed | unlisted
  · simp only [dispatchTable, List.map_cons, List.map_nil, List.mem_cons, List.not_mem_nil, or_false] at listed
    rcases listed with rfl | rfl | rfl | rfl | rfl | rfl | rfl | rfl | rfl | rfl | rfl <;> assumption
  · rw [rxInstr_of_raw unlisted]
    exact raw c unlisted

theorem encode_rxInstr (pre : BitVec 16) (cmd : Byte) (p : List Byte) :
    encode (rxInstr pre cmd p) = .frameRx (candidateOf pre cmd p) :=
  rxInstr_rows (P := fun c i => encode i = .frameRx (candidateOf pre c p))
    rfl rfl rfl rfl rfl rfl rfl rfl rfl rfl rfl (fun _ _ => rfl) cmd

theorem wellFormed_rxInstr {p : List Byte} (hp : payloadFits p = true) (pre : BitVec 16) (cmd : Byte) :
    (rxInstr pre cmd p).wellFormed = true :=
  rxInstr_rows (P := fun _ i => i.wellFormed = true) hp hp hp hp hp hp hp hp hp hp hp
    (fun c hc => by simp [Instr.wellFormed, hp, hc]) cmd

/-- Every DEC operation does with its payload what the engine does with the answer of its command byte (R162). -/
theorem exec_rxInstr (pre : BitVec 16) (cmd : Byte) (p : List Byte) (s : State) :
    exec (rxInstr pre cmd p) s = .next (answer cmd p s) :=
  rxInstr_rows (P := fun c i => exec i s = .next (answer c p s))
    rfl rfl rfl rfl rfl rfl rfl rfl rfl rfl rfl (fun _ _ => rfl) cmd

theorem payloadFits_iff (p : List Byte) : payloadFits p = true ↔ p.length ≤ Config.maxPayload := by
  simp [payloadFits]

/-- What `frameFault` tests: whole, LEN not 0, and `frame_valid` (R91, R93, R98); six bytes follow from them. -/
theorem frameFault_eq_none_iff (cand : List Byte) :
    frameFault cand = none ↔ cand.length = total cand ∧ lenByte cand ≠ 0 ∧ frameValid cand = true := by
  have ht : total cand = 5 + lenByte cand := rfl
  unfold frameFault Config.minFrame
  split_ifs with hshort hzero hlen hvalid
  · simp only [false_iff]; omega
  · simp [hzero]
  · simp [hlen]
  · simp [not_not.mp hlen, hzero, hvalid]
  · simp [hvalid]

/-- The byte sequences without a fault are those that R95 builds (R98, R103). -/
theorem frameFault_eq_none_iff_candidateOf (cand : List Byte) :
    frameFault cand = none ↔ ∃ pre cmd p, payloadFits p = true ∧ cand = candidateOf pre cmd p := by
  constructor
  · intro h
    obtain ⟨hlen, hzero, hvalid⟩ := (frameFault_eq_none_iff cand).mp h
    have hp := length_payloadOf hlen
    have := lenByte_lt cand
    exact ⟨preOf cand, cmdOf cand, payloadOf cand,
      (payloadFits_iff _).mpr (by unfold Config.maxPayload; omega), candidate_eq hlen hzero hvalid⟩
  · rintro ⟨pre, cmd, p, hp, rfl⟩
    exact frameFault_candidateOf ((payloadFits_iff p).mp hp)

theorem decode_candidateOf {p : List Byte} (hp : payloadFits p = true) (pre : BitVec 16) (cmd : Byte) :
    decode (.frameRx (candidateOf pre cmd p)) = .ok (rxInstr pre cmd p) := by
  rw [payloadFits_iff] at hp
  simp only [decode, frameFault_candidateOf hp, decodeCandidate_eq, preOf_candidateOf, cmdOf_candidateOf,
    payloadOf_candidateOf hp]

/-- Everything a received candidate can decode to. -/
theorem decode_frameRx_ok {cand : List Byte} {i : Instr} (h : decode (.frameRx cand) = .ok i) :
    ∃ pre cmd p, payloadFits p = true ∧ cand = candidateOf pre cmd p ∧ i = rxInstr pre cmd p := by
  cases hfault : frameFault cand with
  | some r => simp [decode, hfault] at h
  | none =>
    obtain ⟨pre, cmd, p, hp, rfl⟩ := (frameFault_eq_none_iff_candidateOf cand).mp hfault
    rw [decode_candidateOf hp] at h
    exact ⟨pre, cmd, p, hp, rfl, (Except.ok.inj h).symm⟩

/-! Produced frames (R107 (b)) and PUBLISH (R107 (f)). -/

theorem decode_frame {p : List Byte} (hp : payloadFits p = true) (cmd : Byte) :
    decode (.frameTx (frame cmd p)) = .ok (.frame cmd p) := by
  rw [payloadFits_iff] at hp
  simp [decode, frame, frameFault_candidateOf hp, payloadOf_candidateOf hp]

/-- Everything a produced frame can decode to: its preamble is `05 0C` (R94). -/
theorem decode_frameTx_ok {sent : List Byte} {i : Instr} (h : decode (.frameTx sent) = .ok i) :
    ∃ cmd p, payloadFits p = true ∧ sent = frame cmd p ∧ i = .frame cmd p := by
  cases hfault : frameFault sent with
  | some r => simp [decode, hfault] at h
  | none =>
    obtain ⟨pre, cmd, p, hp, rfl⟩ := (frameFault_eq_none_iff_candidateOf sent).mp hfault
    by_cases hpre : pre = preamble
    · subst hpre
      exact ⟨cmd, p, hp, rfl, (Except.ok.inj ((decode_frame hp cmd).symm.trans h)).symm⟩
    · simp [decode, hfault, hpre] at h

theorem decode_publish {cmd : Byte} {tag : Tag} {p : List Byte} (h : (Instr.publish cmd tag p).wellFormed = true) :
    decode (.publish cmd (tagCode tag) p) = .ok (.publish cmd tag p) := by
  simp only [Instr.wellFormed, Bool.and_eq_true, beq_iff_eq, payloadFits_iff] at h
  obtain ⟨hp, htag⟩ := h
  simp [decode, hp, htag]

/-- Everything PUBLISH with its operands can decode to: the tag is the one `decode` returns (R220). -/
theorem decode_publish_ok {cmd : Byte} {code : BitVec 4} {p : List Byte} {i : Instr}
    (h : decode (.publish cmd code p) = .ok i) :
    ∃ tag, (Instr.publish cmd tag p).wellFormed = true ∧ code = tagCode tag ∧ i = .publish cmd tag p := by
  simp only [decode] at h
  split_ifs at h with hp
  split at h
  · rename_i tag htag
    split_ifs at h with hcode
    refine ⟨tag, ?_, hcode.symm, (Except.ok.inj h).symm⟩
    simp [Instr.wellFormed, payloadFits_iff, hp, htag]
  · cases h

/-! The round trip. -/

/-- Settles O2, format by format. -/
theorem decodeOfEncode : Obligations.DecodeOfEncode := by
  intro i hi
  cases i with
  | decState pre p => exact decode_candidateOf hi pre 0x95
  | decPosdone pre p => exact decode_candidateOf hi pre 0x94
  | decPosobst pre p => exact decode_candidateOf hi pre 0x93
  | decMoveacc pre p => exact decode_candidateOf hi pre 0xB0
  | decRefack pre p => exact decode_candidateOf hi pre 0x92
  | decStopack pre p => exact decode_candidateOf hi pre 0x91
  | decGripack pre p => exact decode_candidateOf hi pre 0xB7
  | decCmderr pre p => exact decode_candidateOf hi pre 0x88
  | decErrack pre p => exact decode_candidateOf hi pre 0x8B
  | decConfig pre p => exact decode_candidateOf hi pre 0x80
  | decCmdinfo pre p => exact decode_candidateOf hi pre 0x8A
  | decRaw pre cmd p =>
    simp only [Instr.wellFormed, Bool.and_eq_true, beq_iff_eq] at hi
    obtain ⟨hp, unlisted⟩ := hi
    rw [encode, decode_candidateOf hp, rxInstr_of_raw unlisted]
  | frame cmd p => exact decode_frame hi cmd
  | publish cmd tag p => exact decode_publish hi
  | _ => exact congrArg Except.ok (decodeStimulus_of_encode hi rfl)

/-- Settles O3, format by format. -/
theorem encodeOfDecode : Obligations.EncodeOfDecode := by
  intro c i h
  cases c with
  | frameRx cand =>
    obtain ⟨pre, cmd, p, hp, rfl, rfl⟩ := decode_frameRx_ok h
    exact ⟨wellFormed_rxInstr hp pre cmd, encode_rxInstr pre cmd p⟩
  | frameTx sent =>
    obtain ⟨cmd, p, hp, rfl, rfl⟩ := decode_frameTx_ok h
    exact ⟨hp, rfl⟩
  | port x =>
    obtain rfl := Except.ok.inj h
    exact decodeStimulus_encoded x
  | publish cmd code p =>
    obtain ⟨tag, hwf, rfl, rfl⟩ := decode_publish_ok h
    exact ⟨hwf, rfl⟩

/-- Settles O28: the candidate decodes to the DEC operation of its command byte, which answers as the engine does. -/
theorem engineRunsDecodedFrame : Obligations.EngineRunsDecodedFrame := by
  intro s cmd p n found
  obtain ⟨-, -, -, hp, hcand⟩ := scan1_frame found
  refine ⟨_, _, ?_, exec_rxInstr (preOf (s.rxbuf.take n)) cmd p _, ?_⟩
  · rw [hcand, preOf_candidateOf, decode_candidateOf ((payloadFits_iff p).mpr hp)]
  · simp only [exec, execEngineStepFrame, found]

/-- Settles O1, by running the decoder on each word. -/
theorem writtenWordsDecode : Obligations.WrittenWordsDecode := by
  refine ⟨?_, ?_, ?_, ?_, ?_, ?_, ?_, ?_⟩ <;> decide +kernel

end Sys2Proof.Machine
end

section
/-! PROOFS. The checksum and the frame of 30_encoding.md: an iteration of `crc16` is linear over XOR and injective,
from which its table form, the unreflected wording and the residue test follow (R96, R97), and the layout of a frame
(R90, R95). -/

namespace Sys2Proof.Machine

/-! The iterations of `crc16` are linear over XOR and injective. -/

theorem crcBit_of_even {x : BitVec 16} (h : x.getLsbD 0 = false) : crcBit x = x >>> 1 :=
  if_neg (Bool.eq_false_iff.mp h)

theorem crcBit_of_odd {x : BitVec 16} (h : x.getLsbD 0 = true) : crcBit x = x >>> 1 ^^^ 0xA001#16 := if_pos h

theorem crcBit_xor (x y : BitVec 16) : crcBit (x ^^^ y) = crcBit x ^^^ crcBit y := by
  have hbit : (x ^^^ y).getLsbD 0 = (x.getLsbD 0 ^^ y.getLsbD 0) := BitVec.getLsbD_xor
  have hshift : (x ^^^ y) >>> 1 = x >>> 1 ^^^ y >>> 1 := BitVec.ushiftRight_xor_distrib x y 1
  cases hx : x.getLsbD 0 <;> cases hy : y.getLsbD 0 <;> rw [hx, hy] at hbit
  · rw [crcBit_of_even hbit, crcBit_of_even hx, crcBit_of_even hy, hshift]
  · rw [crcBit_of_odd hbit, crcBit_of_even hx, crcBit_of_odd hy, hshift]; ac_rfl
  · rw [crcBit_of_odd hbit, crcBit_of_odd hx, crcBit_of_even hy, hshift]; ac_rfl
  · calc crcBit (x ^^^ y) = x >>> 1 ^^^ y >>> 1 ^^^ (0xA001#16 ^^^ 0xA001#16) := by
          rw [crcBit_of_even hbit, hshift, BitVec.xor_self, BitVec.xor_zero]
      _ = crcBit x ^^^ crcBit y := by rw [crcBit_of_odd hx, crcBit_of_odd hy]; ac_rfl

theorem crcShift_xor (k : Nat) (x y : BitVec 16) : crcShift k (x ^^^ y) = crcShift k x ^^^ crcShift k y := by
  induction k generalizing x y with
  | zero => rfl
  | succ k ih => rw [crcShift, crcBit_xor, ih, crcShift, crcShift]

theorem crcShift_add (j k : Nat) (x : BitVec 16) : crcShift (j + k) x = crcShift k (crcShift j x) := by
  induction j generalizing x with
  | zero => rw [Nat.zero_add, crcShift]
  | succ j ih => rw [Nat.succ_add, crcShift, ih, crcShift]

/-- The polynomial enters only when a 1 is shifted out, so over zeros the iterations only shift. -/
theorem crcShift_of_low_zeros {k : Nat} {x : BitVec 16} (h : ∀ i < k, x.getLsbD i = false) :
    crcShift k x = x >>> k := by
  induction k generalizing x with
  | zero => simp [crcShift]
  | succ k ih =>
    have hrest : ∀ i < k, (x >>> 1).getLsbD i = false := fun i hi => by
      rw [BitVec.getLsbD_ushiftRight]
      exact h _ (by omega)
    rw [crcShift, crcBit_of_even (h 0 k.succ_pos), ih hrest, Nat.add_comm k 1, BitVec.shiftRight_add]

/-- One iteration loses nothing: its top bit tells whether a 1 was shifted out. -/
theorem crcBit_eq_zero {x : BitVec 16} (h : crcBit x = 0#16) : x = 0#16 := by
  cases hlow : x.getLsbD 0 with
  | true =>
    rw [crcBit_of_odd hlow] at h
    have htop : (x >>> 1 ^^^ 0xA001#16).getLsbD 15 = (0#16).getLsbD 15 := congrArg (BitVec.getLsbD · 15) h
    simp at htop
  | false =>
    rw [crcBit_of_even hlow] at h
    refine BitVec.eq_of_getLsbD_eq fun i hi => ?_
    rcases i with _ | i
    · simpa using hlow
    · have hi : (x >>> 1).getLsbD i = (0#16).getLsbD i := congrArg (BitVec.getLsbD · i) h
      simpa [Nat.add_comm] using hi

theorem crcShift_eq_zero_iff (k : Nat) (x : BitVec 16) : crcShift k x = 0#16 ↔ x = 0#16 := by
  induction k generalizing x with
  | zero => rfl
  | succ k ih =>
    rw [crcShift, ih]
    exact ⟨crcBit_eq_zero, fun h => by rw [h]; rfl⟩

/-! The table form (R97 (b)). -/

theorem setWidth_byte_eq_append (b : Byte) : b.setWidth 16 = 0#8 ++ b :=
  BitVec.setWidth_eq_append (by decide)

theorem setWidth_byte_high (b : Byte) : b.setWidth 16 >>> 8 = 0#16 := by
  refine BitVec.eq_of_getLsbD_eq fun i hi => ?_
  simp

/-- Only the low byte of a value meets the polynomial in 8 iterations; its high byte is shifted down. -/
theorem crcShift_eight (x : BitVec 16) : crcShift 8 x = x >>> 8 ^^^ crcShift 8 (x &&& 0x00FF#16) := by
  have hlow : ∀ i < 8, (x ^^^ (x &&& 0x00FF#16)).getLsbD i = false := fun i hi => by
    have hmask : ∀ j < 8, (0x00FF#16).getLsbD j = true := by decide
    simp [hmask i hi]
  have hhigh : (x ^^^ (x &&& 0x00FF#16)) >>> 8 = x >>> 8 := by
    rw [BitVec.ushiftRight_xor_distrib, BitVec.ushiftRight_and_distrib]
    simp
  calc crcShift 8 x = crcShift 8 (x ^^^ (x &&& 0x00FF#16) ^^^ (x &&& 0x00FF#16)) := by
        rw [BitVec.xor_assoc, BitVec.xor_self, BitVec.xor_zero]
    _ = x >>> 8 ^^^ crcShift 8 (x &&& 0x00FF#16) := by rw [crcShift_xor, crcShift_of_low_zeros hlow, hhigh]

/-- Settles O5: the table entry is 8 iterations over the low byte. -/
theorem crcTableForm : Obligations.CrcTableForm := by
  intro c b
  rw [crcByte, crcShift_eight, BitVec.ushiftRight_xor_distrib, setWidth_byte_high, BitVec.xor_zero]

/-! The unreflected wording (R96). -/

theorem reverse_xor {w : Nat} (x y : BitVec w) : (x ^^^ y).reverse = x.reverse ^^^ y.reverse := by
  refine BitVec.eq_of_getLsbD_eq fun i hi => ?_
  simp only [BitVec.getLsbD_xor, BitVec.getLsbD_reverse, BitVec.getMsbD_xor]

/-- A right shift is a left shift of the reversed bits. -/
theorem reverse_ushiftRight_one (x : BitVec 16) : (x >>> 1).reverse = x.reverse <<< 1 := by
  refine BitVec.eq_of_getLsbD_eq fun i hi => ?_
  rw [BitVec.getLsbD_reverse, BitVec.getLsbD_shiftLeft, BitVec.getLsbD_reverse]
  simp [Bool.and_assoc]

/-- 0xA001 is the polynomial 0x8005 reflected (R96). -/
theorem crcBitMsb_reverse (x : BitVec 16) : crcBitMsb x.reverse = (crcBit x).reverse := by
  have hbit : x.reverse.getLsbD 15 = x.getLsbD 0 := by rw [BitVec.getLsbD_reverse]; rfl
  have hpoly : (0xA001#16).reverse = 0x8005#16 := by decide
  rw [crcBitMsb, hbit, ← reverse_ushiftRight_one]
  cases hx : x.getLsbD 0 with
  | true => rw [crcBit_of_odd hx, reverse_xor, hpoly, if_pos rfl]
  | false => rw [crcBit_of_even hx, if_neg Bool.false_ne_true]

theorem crcShiftMsb_reverse (k : Nat) (x : BitVec 16) : crcShiftMsb k x.reverse = (crcShift k x).reverse := by
  induction k generalizing x with
  | zero => rfl
  | succ k ih => rw [crcShiftMsb, crcBitMsb_reverse, ih, crcShift]

theorem crcByteMsb_reverse (c : BitVec 16) (b : Byte) : crcByteMsb c.reverse b.reverse = (crcByte c b).reverse := by
  have hbyte : b.reverse ++ 0#8 = (b.setWidth 16).reverse := by
    rw [setWidth_byte_eq_append, BitVec.reverse_append, BitVec.reverse_eq_zero_iff.mpr rfl, BitVec.cast_eq]
  rw [crcByteMsb, hbyte, ← reverse_xor, crcShiftMsb_reverse, crcByte]

theorem foldl_crcByteMsb_reverse (s : List Byte) (c : BitVec 16) :
    (s.map BitVec.reverse).foldl crcByteMsb c.reverse = (crcFrom c s).reverse := by
  induction s generalizing c with
  | nil => rfl
  | cons b s ih => rw [List.map_cons, List.foldl_cons, crcByteMsb_reverse, ih, crcFrom_cons]

/-- Settles O6: reversing the bits carries each step of one wording to the other. -/
theorem crcUnreflectedAgrees : Obligations.CrcUnreflectedAgrees := by
  intro s
  have hzero : (0x0000#16).reverse = 0x0000#16 := BitVec.reverse_eq_zero_iff.mpr rfl
  rw [crc16Unreflected, ← hzero, foldl_crcByteMsb_reverse, BitVec.reverse_reverse_eq, crc16]

/-! The residue test (R97 (c)). -/

/-- Two bytes put together are the XOR of the one in the high half and the one in the low half. -/
theorem le16_eq_xor (lo hi : Byte) : le16 lo hi = lo.setWidth 16 ^^^ (hi ++ 0#8) := by
  rw [le16, setWidth_byte_eq_append, BitVec.xor_append, BitVec.zero_xor, BitVec.xor_zero]

theorem crcShift_eight_high_byte (b : Byte) : crcShift 8 (b ++ 0#8) = b.setWidth 16 := by
  have hlow : ∀ i < 8, (b ++ 0#8).getLsbD i = false := fun i hi => by
    rw [BitVec.getLsbD_append]
    simp [hi]
  rw [crcShift_of_low_zeros hlow]
  refine BitVec.eq_of_getLsbD_eq fun i hi => ?_
  rw [BitVec.getLsbD_ushiftRight, BitVec.getLsbD_append, BitVec.getLsbD_setWidth]
  simp [hi]

/-- Two more bytes are 16 iterations over the XOR of the running value with them. -/
theorem crcFrom_pair (c : BitVec 16) (lo hi : Byte) : crcFrom c [lo, hi] = crcShift 16 (c ^^^ le16 lo hi) :=
  calc crcFrom c [lo, hi] = crcShift 8 (crcShift 8 (c ^^^ lo.setWidth 16) ^^^ hi.setWidth 16) := rfl
    _ = crcShift 8 (crcShift 8 (c ^^^ lo.setWidth 16 ^^^ (hi ++ 0#8))) := by
        rw [crcShift_xor 8 _ (hi ++ 0#8), crcShift_eight_high_byte]
    _ = crcShift 16 (c ^^^ le16 lo hi) := by rw [← crcShift_add 8 8, le16_eq_xor, BitVec.xor_assoc]

/-- A whole candidate is the bytes its checksum covers, then the two bytes of the trailer. -/
theorem candidate_trailer {cand : List Byte} (hlen : cand.length = total cand) :
    cand = cand.take (total cand - 2) ++ [cand.getD (total cand - 2) 0#8, cand.getD (total cand - 1) 0#8] := by
  have hb := total_bounds cand
  refine list_ext_getD (by simp; omega) fun i hi => ?_
  have htake : (cand.take (total cand - 2)).length = total cand - 2 := by rw [List.length_take]; omega
  by_cases hbody : i < total cand - 2
  · rw [List.getD_append _ _ _ _ (by omega), getD_take _ hbody]
  · rw [List.getD_append_right _ _ _ _ (by omega), htake]
    obtain rfl | rfl : i = total cand - 2 ∨ i = total cand - 1 := by omega
    · simp
    · simp [show total cand - 1 - (total cand - 2) = 1 by omega]

/-- Settles O7: the residue is 16 iterations over the XOR of the checksum with the trailer. -/
theorem frameValidIffResidueZero : Obligations.FrameValidIffResidueZero := by
  intro cand hlen
  have hcrc : crc16 cand = crcShift 16 (crc16 (cand.take (total cand - 2)) ^^^ receivedCrc cand (total cand)) := by
    rw [receivedCrc, ← crcFrom_pair, ← crc16_append, ← candidate_trailer hlen]
  rw [hcrc, crcShift_eq_zero_iff, BitVec.xor_eq_zero_iff, frameValid, beq_iff_eq, eq_comm]

/-! The layout of a frame (R90, R95). -/

/-- Settles O8, byte by byte. -/
theorem frameLayout : Obligations.FrameLayout := by
  intro cmd p hp
  rw [frame, length_candidateOf, take_candidateOf, candidateOf_eq]
  have hlen : (BitVec.ofNat 8 (p.length + 1)).toNat = 1 + p.length := by rw [BitVec.toNat_ofNat]; omega
  refine ⟨rfl, rfl, rfl, hlen, rfl, fun i hi => ?_, ?_, ?_⟩
  · rw [Nat.add_comm 4 i]
    simp only [List.getD_cons_succ]
    exact List.getD_append _ _ _ _ hi
  · simp only [List.getD_cons_succ]
    rw [List.getD_append_right _ _ _ _ le_rfl, Nat.sub_self]
    rfl
  · simp only [List.getD_cons_succ, show p.length + 5 = p.length + 1 + 4 by rfl]
    rw [List.getD_append_right _ _ _ _ (by omega), Nat.add_sub_cancel_left]
    rfl

end Sys2Proof.Machine
end

section
/-! PROOFS. The rows of the opcode table and the codes they apply to (30_encoding.md R107). -/

namespace Sys2Proof.Machine

/-! What selects a row, format by format. -/

/-- A row is selected by the word of its format under the mask, and by its selector where it has one (R107). -/
theorem selects_iff (r : Row) (c : Code) :
    r.selects c = true ↔
      ∃ w, rowWord r.format c = some w ∧ w &&& r.mask = r.pattern ∧ (r.selector = none ∨ r.selector = selectorOf c) := by
  unfold Row.selects
  cases rowWord r.format c <;> simp

/-- Whatever row looks at a received candidate, it finds a word in a valid one only (R98, R107 (a)). -/
theorem frameFault_of_selects {r : Row} {cand : List Byte} (h : r.selects (.frameRx cand) = true) :
    frameFault cand = none := by
  obtain ⟨w, hword, -, -⟩ := (selects_iff r _).mp h
  cases hf : r.format with
  | frameRx =>
    by_contra hfault
    simp [hf, rowWord, rxHeader, hfault] at hword
  | _ => simp [hf, rowWord, txHeader, writeOf, regNumOf, selectorOf] at hword

/-- A FRAME_RX row is selected on received candidates only. -/
theorem candidate_of_rx_selects {r : Row} (hr : r.format = .frameRx) {c : Code} (h : r.selects c = true) :
    ∃ pre cmd p, payloadFits p = true ∧ c = .frameRx (candidateOf pre cmd p) := by
  cases c with
  | frameRx cand =>
    obtain ⟨pre, cmd, p, hp, rfl⟩ := (frameFault_eq_none_iff_candidateOf cand).mp (frameFault_of_selects h)
    exact ⟨pre, cmd, p, hp, rfl⟩
  | _ => simp [selects_iff, hr, rowWord, rxHeader] at h

/-- The row of a command byte is selected where the code decodes to the DEC operation of that byte. -/
theorem decodes_of_listed_selects {w : Word} {c : Code} {j : Instr}
    (h : (Row.mk .frameRx w 0x000000FF none).selects c = true) (hj : decode c = .ok j) :
    ∃ pre p, j = rxInstr pre (w.setWidth 8) p := by
  obtain ⟨pre, cmd, p, hp, rfl⟩ := candidate_of_rx_selects rfl h
  rw [Laws.RowMatch.selects_candidate hp, beq_iff_eq] at h
  rw [decode_candidateOf hp] at hj
  exact ⟨pre, p, by rw [← h]; simpa using (Except.ok.inj hj).symm⟩

/-- A command byte of no listed row decodes as RAW (R107 (a), R181). -/
theorem raw_of_unlisted {cmd : Byte} (h : ∀ r ∈ listedRxRows, cmd.setWidth 32 ≠ r.pattern) :
    (dispatch cmd).1 = .raw := by
  refine (listed_or_raw cmd).resolve_left fun listed => ?_
  have hrow : ∀ c ∈ dispatchTable.map Prod.fst, ∃ r ∈ listedRxRows, c.setWidth 32 = r.pattern := by decide
  obtain ⟨r, hr, hc⟩ := hrow cmd listed
  exact h r hr hc

/-- The row DEC.RAW applies where the command byte is in no other row: "only when no other FRAME_RX row matches". -/
theorem decodes_of_default_applies {c : Code} {j : Instr} (h : defaultRow.applies c = true) (hj : decode c = .ok j) :
    ∃ pre cmd p, j = .decRaw pre cmd p := by
  simp only [Row.applies, bne_self_eq_false, Bool.false_or, Bool.and_eq_true, Bool.not_eq_true'] at h
  obtain ⟨hsel, hnone⟩ := h
  obtain ⟨pre, cmd, p, hp, rfl⟩ := candidate_of_rx_selects rfl hsel
  have unlisted : (dispatch cmd).1 = .raw := by
    refine raw_of_unlisted fun r hr hc => List.any_eq_false.mp hnone r hr ?_
    rw [Laws.RowMatch.listed_form r hr, Laws.RowMatch.selects_candidate hp, hc, beq_self_eq_true]
  rw [decode_candidateOf hp, rxInstr_of_raw unlisted] at hj
  exact ⟨pre, cmd, p, (Except.ok.inj hj).symm⟩

/-- The row FRAME is selected where the code decodes to a frame (R107 (b)). -/
theorem decodes_of_tx_selects {r : Row} (hr : r.format = .frameTx) {c : Code} {j : Instr} (h : r.selects c = true)
    (hj : decode c = .ok j) : ∃ cmd p, j = .frame cmd p := by
  cases c with
  | frameTx sent =>
    obtain ⟨cmd, p, -, -, rfl⟩ := decode_frameTx_ok hj
    exact ⟨cmd, p, rfl⟩
  | _ => simp [selects_iff, hr, rowWord, txHeader] at h

theorem writeOf_eq_some_iff (c : Code) (n : RegNum) (v : Word) :
    writeOf c = some (n, v) ↔ c = .port (.regWrite n v) := by
  unfold writeOf
  split <;> simp

/-- A row of CMDR is selected by bits 7:0 of a value written to register 0x001 (R101, R107 (c)). -/
theorem write_of_cmdr_selects {w : Word} {c : Code} (h : (Row.mk .cmdr w 0x000000FF none).selects c = true) :
    ∃ v, c = .port (.regWrite 0x001#12 v) ∧ v.extractLsb' 0 8 = w.extractLsb' 0 8 := by
  obtain ⟨v, hword, hpat, -⟩ := (selects_iff _ c).mp h
  obtain ⟨⟨n, v'⟩, hwrite, hn⟩ := Option.bind_eq_some_iff.mp hword
  obtain ⟨rfl, rfl⟩ : n = 0x001#12 ∧ v' = v := by simpa using hn
  refine ⟨v', (writeOf_eq_some_iff c _ _).mp hwrite, ?_⟩
  obtain rfl : v' &&& 0x000000FF#32 = w := hpat
  rw [BitVec.extractLsb'_and]
  exact BitVec.and_allOnes.symm

/-- A row of REGW is selected by the number of the register written (R107 (d)). -/
theorem write_of_regw_selects {w : Word} {c : Code} (h : (Row.mk .regw w 0x00000FFF none).selects c = true) :
    ∃ v, c = .port (.regWrite (w.setWidth 12) v) := by
  obtain ⟨m, hword, hpat, -⟩ := (selects_iff _ c).mp h
  obtain ⟨⟨n, v⟩, hwrite, rfl⟩ := Option.map_eq_some_iff.mp hword
  obtain rfl : n.setWidth 32 &&& 0x00000FFF#32 = w := hpat
  have hn : (n.setWidth 32 &&& 0x00000FFF#32).setWidth 12 = n := by
    rw [BitVec.setWidth_and, BitVec.setWidth_setWidth_of_le _ (by decide), BitVec.setWidth_eq]
    exact BitVec.and_allOnes
  exact ⟨v, hn.symm ▸ (writeOf_eq_some_iff c n v).mp hwrite⟩

/-- The row of an event is selected where the code decodes to that event's operation (R107 (f)). -/
theorem row_of_event_selects {x : Selector} {c : Code} {j : Instr}
    (h : (Row.mk .event 0 0 (some x)).selects c = true) (hj : decode c = .ok j) :
    rowOf j = Row.mk .event 0 0 (some x) := by
  obtain ⟨m, hword, -, hsel⟩ := (selects_iff _ c).mp h
  have hx : selectorOf c = some x := by simpa [eq_comm] using hsel
  cases c with
  | frameRx | frameTx => cases hx
  | publish cmd code p =>
    obtain ⟨tag, hwf, rfl, rfl⟩ := decode_publish_ok hj
    simp only [Instr.wellFormed, Bool.and_eq_true, beq_iff_eq] at hwf
    obtain ⟨-, htag⟩ := hwf
    obtain rfl : .publish = x := by simpa [selectorOf, htag] using hx
    rfl
  | port y =>
    obtain rfl := Except.ok.inj hj
    cases y with
    | regWrite | regRead => cases hword
    | _ => obtain rfl := Option.some.inj hx; rfl

/-- A row of the table other than the two of the generic access applies to a code only as the row of the operation
that the code decodes to. -/
theorem rowOf_eq_of_applies {i j : Instr} {c : Code} (hi : (rowOf i).format ≠ .reg)
    (h : (rowOf i).applies c = true) (hj : decode c = .ok j) : rowOf j = rowOf i := by
  have hsel : (rowOf i).selects c = true := (Bool.and_eq_true_iff.mp h).1
  cases i with
  | decState | decPosdone | decPosobst | decMoveacc | decRefack | decStopack | decGripack | decCmderr | decErrack
  | decConfig | decCmdinfo =>
    obtain ⟨pre, p, rfl⟩ := decodes_of_listed_selects hsel hj
    rfl
  | decRaw =>
    obtain ⟨pre, cmd, p, rfl⟩ := decodes_of_default_applies h hj
    rfl
  | frame =>
    obtain ⟨cmd, p, rfl⟩ := decodes_of_tx_selects rfl hsel hj
    rfl
  | encode | rxFlush | close | softReset =>
    obtain ⟨v, rfl, hv⟩ := write_of_cmdr_selects hsel
    obtain rfl := Except.ok.inj hj
    simp [decodeStimulus, decodeWrite, hv, rowOf]
  | ctrlWrite | evtClear | ienWrite | snapLatch =>
    obtain ⟨v, rfl⟩ := write_of_regw_selects hsel
    obtain rfl := Except.ok.inj hj
    rfl
  | regWrite | regRead => exact absurd rfl hi
  | rxPush | engineStepDrop1 | engineStepFrame | publish | txPop | rxClose | hardReset =>
    exact row_of_event_selects hsel hj

/-- Settles O4: what a well-formed operation's code decodes to is that operation. -/
theorem selectiveRowsDisjoint : Obligations.SelectiveRowsDisjoint := by
  refine ⟨fun i j _ hj hi h => rowOf_eq_of_applies hi h (decodeOfEncode j hj), fun i cand h => ?_⟩
  have hfault := frameFault_of_selects (Bool.and_eq_true_iff.mp h).1
  obtain ⟨-, hzero, hvalid⟩ := (frameFault_eq_none_iff cand).mp hfault
  exact ⟨hfault, hzero, hvalid⟩

end Sys2Proof.Machine
end

section
/-! PROOFS. The encode family of 40_encode.md: FRAME, ENCODE and TX_POP (R130 to R136), the scanner on an encoded frame
(R137 (b)), and the whole frames on the wire (R137 (a)). -/

namespace Sys2Proof.Machine

/-! The scanner on a candidate (R137 (b)). -/

/-- The scanner cuts a candidate built by R95 into its command and payload (R157). -/
theorem scan1_candidateOf (pre : BitVec 16) (cmd : Byte) {p : List Byte} (hp : p.length ≤ Config.maxPayload) :
    scan1 (candidateOf pre cmd p) = .frame cmd p (6 + p.length) := by
  have whole : (candidateOf pre cmd p).take (p.length + 6) = candidateOf pre cmd p :=
    List.take_of_length_le (length_candidateOf pre cmd p).le
  rw [Nat.add_comm 6]
  simp [scan1, Config.minFrame, total_candidateOf hp, lenByte_candidateOf hp, whole, frameValid_candidateOf hp,
    payloadOf_candidateOf hp]

/-- Settles O9: the candidate alone is cut so, and the bytes behind it do not change the answer. -/
theorem scanRoundTrip : Obligations.ScanRoundTrip := by
  intro pre cmd p rest hp
  have alone := scan1_candidateOf pre cmd hp
  exact (scan1_append (by simp [alone]) rest).trans alone

/-! The three operations (R130, R131, R136). -/

/-- The bytes that the checksum of an encoded frame covers (R90, R94). -/
theorem frameBody_preamble (cmd : Byte) (p : List Byte) :
    frameBody preamble cmd p = [0x05#8, 0x0C#8, BitVec.ofNat 8 (p.length + 1), cmd] ++ p := rfl

/-- Settles O21: the bytes written out are the body of the frame and its trailer (R95). -/
theorem frameLoadsQueue : Obligations.FrameLoadsQueue := by
  intro cmd p s _
  rw [← frameBody_preamble]
  rfl

/-- `MemRead(space, a, n)` lists the bytes of the range (R9). -/
theorem memRead_eq_map (m : Memory) (a n : Nat) :
    memRead m a n = (List.range n).map fun i => readByte m (a + i) := by
  induction n generalizing a with
  | zero => rfl
  | succ k ih => simp [memRead, ih, List.range_succ_eq_map, Function.comp_def, Nat.add_assoc, Nat.add_comm 1]

/-- Settles O22, refusal by refusal in the priority of R135. -/
theorem encodeOutcomes : Obligations.EncodeOutcomes := by
  intro ign s
  refine congrArg Host.Outcome.next ?_
  rcases encodeOp_cases s with ⟨hclosed, h⟩ | ⟨hopen, busy, h⟩ | ⟨hopen, drained, long, h⟩ |
    ⟨hopen, drained, fits, h⟩
  · rw [h, if_pos hclosed]
    rfl
  · rw [h, if_neg (Bool.eq_false_iff.mp hopen), if_pos busy]
    rfl
  · rw [h, if_neg (Bool.eq_false_iff.mp hopen), if_neg (not_not.mpr drained), if_pos long]
    rfl
  · rw [h, if_neg (Bool.eq_false_iff.mp hopen), if_neg (not_not.mpr drained), if_neg (by omega), memRead_eq_map]
    simp only [Nat.zero_add]
    rfl

/-- `TX_POP` while `TXQ` is not empty: its first byte joins the history (R136). -/
theorem execTxPop_cons {s : State} {b : Byte} {rest : List Byte} (hq : s.txq = b :: rest) :
    execTxPop s = .next { s with txq := rest, txwire := s.txwire ++ [b] } := by
  simp only [execTxPop, hq]

/-- Settles O23: `tx_valid` and `tx_data` read the front of the queue that the operation takes. -/
theorem txPopTakesFront : Obligations.TxPopTakesFront := by
  refine fun s => ⟨by simp [txValid], fun b rest hq => ⟨?_, execTxPop_cons hq⟩⟩
  rw [txData, hq, List.head?_cons]

/-! Whole frames on the wire (R137 (a)). -/

/-- The wire history is whole while its two fields stay. -/
theorem WireWhole.congr {s t : State} (h : WireWhole s) (hq : t.txq = s.txq := by rfl)
    (hw : t.txwire = s.txwire := by rfl) : WireWhole t := by
  rwa [WireWhole, hq, hw]

/-- With an empty queue no frame is begun: `TXWIRE` is complete frames. -/
theorem WireWhole.complete {s : State} (h : WireWhole s) (drained : s.txq = []) :
    ∃ sent : List (Byte × List Byte), (∀ f ∈ sent, f.2.length ≤ Config.maxPayload) ∧
      s.txwire = (sent.map fun f => frame f.1 f.2).flatten := by
  obtain ⟨sent, part, hfit, hwire, ⟨rfl, -⟩ | ⟨queued, -⟩⟩ := h
  · exact ⟨sent, hfit, by simpa using hwire⟩
  · exact absurd drained queued

/-- A frame that enters an empty queue is begun with no byte of it on the wire (R131). -/
theorem WireWhole.loadFrame {s : State} (h : WireWhole s) (drained : s.txq = []) (cmd : Byte) {p : List Byte}
    (hp : p.length ≤ Config.maxPayload) : WireWhole (loadFrame cmd p s) := by
  obtain ⟨sent, hfit, hwire⟩ := h.complete drained
  exact ⟨sent, [], hfit, by simpa using hwire, .inr ⟨List.cons_ne_nil _ _, cmd, p, hp, rfl⟩⟩

/-- A byte that leaves the queue extends the prefix on the wire, and the last one completes its frame (R136). -/
theorem WireWhole.txPop {s : State} (h : WireWhole s) {b : Byte} {rest : List Byte} (queued : s.txq = b :: rest) :
    WireWhole { s with txq := rest, txwire := s.txwire ++ [b] } := by
  obtain ⟨sent, part, hfit, hwire, ⟨-, drained⟩ | ⟨-, cmd, p, hp, hframe⟩⟩ := h
  · simp [queued] at drained
  · rw [queued] at hframe
    cases rest with
    | nil =>
      refine ⟨sent ++ [(cmd, p)], [], fun f hf => ?_, ?_, .inl ⟨rfl, rfl⟩⟩
      · rcases List.mem_append.mp hf with hf | hf
        · exact hfit f hf
        · obtain rfl := List.mem_singleton.mp hf
          exact hp
      · simp [hwire, ← hframe]
    | cons b' rest =>
      exact ⟨sent, part ++ [b], hfit, by simp [hwire],
        .inr ⟨List.cons_ne_nil _ _, cmd, p, hp, by simpa using hframe⟩⟩

/-- Every update of a step keeps the wire history whole, a reset while the queue is empty. -/
theorem StepEffect.wireWhole {i : Instr} {s t : State} (h : StepEffect i s t)
    (hreset : isReset i = true → s.txq = []) (hs : WireWhole s) : WireWhole t := by
  cases h with
  | txPop b rest queued => exact hs.txPop queued
  | loadFrame _ drained fits => exact hs.loadFrame drained _ ((length_memRead ..).trans_le fits)
  | reset resets => exact hs.congr (hq := (hreset resets).symm)
  | frame cmd p n => exact hs.congr (hq := answer_txq ..) (hw := answer_txwire ..)
  | _ => exact hs.congr

/-- Settles O54, from what each update of a step does with TXQ and TXWIRE. -/
theorem stepKeepsWireWhole : Obligations.StepKeepsWireWhole := by
  intro s s' t i hnext hreset hs h
  rcases step_effect h with rfl | ⟨j, rest, hnext', heffect⟩
  · exact hs
  · obtain ⟨rfl, -⟩ : i = j ∧ s' = { s with inputs := rest } := by simpa using hnext.symm.trans hnext'
    exact heffect.wireWhole hreset hs.congr

end Sys2Proof.Machine
end

section
/-! PROOFS. The scan family of 41_scan.md: when the scanner waits and what a frame takes from the buffer (R152 to
R157), `scan_all` on bytes that arrive in pieces and behind garbage (R164 to R168), and the operations RX_PUSH,
RX_FLUSH and ENGINE_STEP (R150, R161, R162, R165). -/

namespace Sys2Proof.Machine

/-! One attempt of the scanner (R151 to R158). -/

/-- Settles O10: a buffer that is answered holds its whole candidate already. -/
theorem scanLooksOnlyAtCandidate : Obligations.ScanLooksOnlyAtCandidate :=
  fun _ rest h => scan1_append h rest

/-- Settles O11: the answers other than NEED_MORE are given to a whole candidate only. -/
theorem scanWaitsExactly : Obligations.ScanWaitsExactly := by
  intro buf
  have htotal : total buf = 5 + (buf.getD 2 0#8).toNat := rfl
  rw [← htotal]
  rcases scan1_cases buf with ⟨hwait, hshort⟩ | ⟨h6, hwhole, ⟨h, -⟩ | ⟨h, -⟩⟩
  · exact iff_of_true hwait hshort
  · exact iff_of_false (by simp [h]) (by omega)
  · exact iff_of_false (by simp [h]) (by omega)

/-- Settles O12: the bytes of a frame are a candidate built by R95, whose fields are read back. -/
theorem scanProgress : Obligations.ScanProgress := by
  refine fun buf => ⟨length_of_drop1, fun c p t h => ?_⟩
  obtain ⟨htotal, hpresent, hlen, -, hcand⟩ := scan1_frame h
  obtain ⟨-, hmax⟩ := total_bounds buf
  obtain ⟨pre, hcand⟩ : ∃ pre, buf.take t = candidateOf pre c p := ⟨_, hcand⟩
  have hcmd : c = buf.getD 3 0#8 := by
    rw [← getD_take buf (show 3 < t by omega), hcand]
    rfl
  have hbody : buf.take (t - 2) = frameBody pre c p := by
    rw [← take_candidateOf, ← hcand, List.take_take, show min (p.length + 4) t = t - 2 by omega]
  have hcrc : receivedCrc (buf.take t) t = crc16 (frameBody pre c p) := by
    rw [hcand, ← hlen, receivedCrc_candidateOf]
  rw [receivedCrc, getD_take buf (by omega), getD_take buf (by omega)] at hcrc
  have hpayload : p = (buf.take (t - 2)).drop 4 := by
    rw [hbody]
    rfl
  exact ⟨by omega, by omega, hpresent, by omega, htotal, hcmd, hpayload, by rw [hbody, hcrc]⟩

/-! `scan_all` (R164). -/

/-- A byte that is dropped from a first piece is dropped from the whole (R151, R166). -/
theorem scanAll_append_of_drop1 {a : List Byte} (h : scan1 a = .drop1) (b : List Byte) :
    scanAll (a ++ b) = (.dropped (a.getD 0 0#8) :: (scanAll (a.drop 1 ++ b)).1, (scanAll (a.drop 1 ++ b)).2) := by
  have hlen := length_of_drop1 h
  rw [scanAll_of_drop1 ((scan1_append (by simp [h]) b).trans h), List.drop_append_of_le_length (by omega),
    List.getD_append _ _ _ _ (by omega)]

/-- A frame that is found in a first piece is found in the whole (R151, R166). -/
theorem scanAll_append_of_frame {a : List Byte} {cmd : Byte} {p : List Byte} {n : Nat}
    (h : scan1 a = .frame cmd p n) (b : List Byte) :
    scanAll (a ++ b) = (.frame cmd p :: (scanAll (a.drop n ++ b)).1, (scanAll (a.drop n ++ b)).2) := by
  obtain ⟨-, hn, -⟩ := scan1_frame h
  rw [scanAll_of_frame ((scan1_append (by simp [h]) b).trans h), List.drop_append_of_le_length hn]

/-- `scan_all` of two pieces, by recursion on the first, which every attempt that does not wait shortens (R163). -/
theorem scanAll_append (a b : List Byte) :
    scanAll (a ++ b) =
      ((scanAll a).1 ++ (scanAll ((scanAll a).2 ++ b)).1, (scanAll ((scanAll a).2 ++ b)).2) := by
  cases hs : scan1 a with
  | needMore => rw [scanAll_of_needMore hs, List.nil_append]
  | drop1 =>
    have hshorter := length_drop_of_drop1 hs
    rw [scanAll_append_of_drop1 hs, scanAll_append (a.drop 1) b, scanAll_of_drop1 hs, List.cons_append]
  | frame cmd p n =>
    have hshorter := length_drop_of_frame hs
    rw [scanAll_append_of_frame hs, scanAll_append (a.drop n) b, scanAll_of_frame hs, List.cons_append]
termination_by a.length
decreasing_by all_goals exact hshorter

/-- Settles O13, attempt by attempt on the first piece. -/
theorem scanAllChunked : Obligations.ScanAllChunked := scanAll_append

/-- Bytes at each of which the attempt drops are dropped one by one, and `scan_all` goes on behind them (R168). -/
theorem scanAll_of_garbage {g rest : List Byte} (h : ∀ i < g.length, scan1 ((g ++ rest).drop i) = .drop1) :
    scanAll (g ++ rest) = (g.map .dropped ++ (scanAll rest).1, (scanAll rest).2) := by
  induction g with
  | nil => rfl
  | cons b g ih =>
    have hfirst : scan1 (b :: (g ++ rest)) = .drop1 := h 0 (Nat.zero_lt_succ _)
    have hrest := ih fun i hi => h (i + 1) (Nat.succ_lt_succ hi)
    rw [List.cons_append, scanAll_of_drop1 hfirst, List.drop_one, List.tail_cons, hrest]
    rfl

/-- `scan_all` delivers an encoded frame unchanged and goes on behind it (R137 (b), R164). -/
theorem scanAll_frame_append (cmd : Byte) {p : List Byte} (hp : p.length ≤ Config.maxPayload) (r : List Byte) :
    scanAll (frame cmd p ++ r) = (.frame cmd p :: (scanAll r).1, (scanAll r).2) := by
  have found : scan1 (frame cmd p) = .frame cmd p (6 + p.length) := scan1_candidateOf preamble cmd hp
  have hlen : 6 + p.length = (frame cmd p).length := by rw [length_frame, Nat.add_comm]
  rw [scanAll_append_of_frame found, hlen, List.drop_length, List.nil_append]

/-- Settles O14: the garbage byte by byte, then the frame. -/
theorem garbageThenFrame : Obligations.GarbageThenFrame := by
  intro g r cmd p hp hdrop
  rw [List.append_assoc] at hdrop ⊢
  rw [scanAll_of_garbage hdrop, scanAll_frame_append cmd hp]

/-! The receive line (R150). -/

/-- Settles O24: a quiescent buffer has room for one byte. -/
theorem rxPushAppends : Obligations.RxPushAppends :=
  fun _ s => ⟨rxReady_iff s, fun ready => ⟨Nat.lt_succ_of_le (length_of_rxReady ready), if_pos ready⟩⟩

/-- `rx_ready` is 0 while disabled, closed or not quiescent (R150). -/
theorem not_rxReady_iff (s : State) :
    ¬ rxReady s = true ↔ s.rxEn = false ∨ s.closed = true ∨ scan1 s.rxbuf ≠ .needMore := by
  rw [rxReady_iff]
  simp only [not_and_or, Bool.not_eq_true, Bool.not_eq_false, ne_eq]

/-! The engine's step (R160 to R162). -/

/-- The engine's step on a drop (R161). -/
theorem execEngineStepDrop1_of_drop1 {s : State} (h : scan1 s.rxbuf = .drop1) :
    execEngineStepDrop1 s = .next (raise .cksum { s with rxbuf := s.rxbuf.drop 1 }) := by
  simp only [execEngineStepDrop1, h]

/-- Without a drop the outcome DROP1 is not enabled (R160). -/
theorem execEngineStepDrop1_of_ne {s : State} (h : scan1 s.rxbuf ≠ .drop1) : execEngineStepDrop1 s = .next s := by
  unfold execEngineStepDrop1
  split
  · exact absurd ‹_› h
  · rfl
  · rfl

/-- The engine's step on a frame (R162). -/
theorem execEngineStepFrame_of_frame {s : State} {cmd : Byte} {p : List Byte} {n : Nat}
    (h : scan1 s.rxbuf = .frame cmd p n) :
    execEngineStepFrame s = .next (answer cmd p { s with rxbuf := s.rxbuf.drop n }) := by
  simp only [execEngineStepFrame, h]

/-- Without a frame the outcome FRAME is not enabled (R160). -/
theorem execEngineStepFrame_of_ne {s : State} (h : ∀ cmd p n, scan1 s.rxbuf ≠ .frame cmd p n) :
    execEngineStepFrame s = .next s := by
  unfold execEngineStepFrame
  split
  · exact absurd ‹_› (h _ _ _)
  · rfl
  · rfl

/-- Settles O26: the byte at the front is the first of the buffer. -/
theorem engineDropsOneByte : Obligations.EngineDropsOneByte := by
  intro b rest s hbuf found
  refine (execEngineStepDrop1_of_drop1 found).trans ?_
  rw [hbuf, List.drop_one, List.tail_cons]
  rfl

/-- Settles O27: the invariants hold without the frame's bytes, so its answer is published as R220 says. -/
theorem engineFrameOutcomes : Obligations.EngineFrameOutcomes := by
  intro s cmd p n hs found
  obtain ⟨-, -, -, hp, -⟩ := scan1_frame found
  refine ⟨_, execEngineStepFrame_of_frame found, answer_rxbuf .., ?_⟩
  rcases answer_cases cmd p { s with rxbuf := s.rxbuf.drop n } with ⟨hnone, h⟩ | ⟨tag, htag, h⟩ <;> rw [h]
  · exact ⟨fun tag htag => by simp [hnone] at htag, fun _ => rfl⟩
  · refine ⟨fun tag' htag' => ?_, fun hnone => by simp [htag] at hnone⟩
    obtain rfl := Option.some.inj (htag.symm.trans htag')
    exact publish_published (hs.drop_rxbuf n) cmd tag hp

/-- Settles O25, operation by operation. -/
theorem disabledStepsChangeNothing : Obligations.DisabledStepsChangeNothing := by
  refine fun b s => ⟨fun h => ?_, fun drained => ?_, execEngineStepDrop1_of_ne, execEngineStepFrame_of_ne⟩
  · have hoff := (not_rxReady_iff s).mpr h
    exact ⟨if_neg hoff, if_neg hoff⟩
  · simp only [exec, execTxPop, drained]

/-! RX_FLUSH and STATUS (R165, R242). -/

/-- `STATUS.RX_LEN` is the number of bytes in RXBUF (R34). -/
theorem statusWord_rxLen (s : State) : (statusWord s).extractLsb' 8 9 = BitVec.ofNat 9 s.rxbuf.length := by
  refine BitVec.eq_of_getLsbD_eq fun i hi => ?_
  simp only [statusWord, BitVec.getLsbD_extractLsb', BitVec.getLsbD_append]
  simp [hi, show ¬ 8 + i < 1 by omega]

/-- `STATUS.RX_IDLE` tells whether the scanner is quiescent (R34). -/
theorem statusWord_rxIdle (s : State) : (statusWord s).getLsbD 2 = quiescent s := by
  simp only [statusWord, BitVec.getLsbD_append]
  simp [bit]

/-- Settles O29: an empty buffer has length 0 and is quiescent. -/
theorem rxFlushEmpties : Obligations.RxFlushEmpties :=
  fun _ s => ⟨rxFlush s, rfl, rfl, statusWord_rxLen (rxFlush s), statusWord_rxIdle (rxFlush s)⟩

end Sys2Proof.Machine
end

section
/-! PROOFS. The answer decoder of 42_decode.md: what each command code requires (R180, R181, R194), what the DEC
operations do with it (R182 to R193), and that the register views give back what was published (R195 (d) to R197,
R224 to R228). -/

namespace Sys2Proof.Machine

/-! The dispatch table (R181) and the length checks (R194). -/

/-- A command code has a row of the table, or is RAW with any length (R181). -/
theorem dispatch_cases (c : Byte) :
    (c, dispatch c) ∈ dispatchTable ∨ dispatch c = (.raw, none) := by
  unfold dispatch
  cases h : dispatchTable.lookup c with
  | some row =>
    obtain ⟨_, _, htable, -⟩ := List.lookup_eq_some_iff.mp h
    exact .inl (by simp [htable])
  | none => exact .inr rfl

/-- The codes that require a length, each with it (R181). -/
theorem dispatch_need_iff (c : Byte) (n : Nat) :
    (dispatch c).2 = some n ↔
      (c = 0x95#8 ∧ n = 14) ∨ ((c = 0x94#8 ∨ c = 0x93#8 ∨ c = 0xB0#8) ∧ n = 4) ∨ (c = 0x88#8 ∧ n = 1) := by
  constructor
  · intro hneed
    rcases dispatch_cases c with listed | hraw
    · have hd : dispatch c = ((dispatch c).1, some n) := Prod.ext rfl hneed
      rw [hd] at listed
      simp only [dispatchTable, List.mem_cons, Prod.mk.injEq, Option.some.injEq, List.not_mem_nil, or_false,
        reduceCtorEq, and_false, false_or] at listed
      tauto
    · simp [hraw] at hneed
  · rintro (⟨rfl, rfl⟩ | ⟨rfl | rfl | rfl, rfl⟩ | ⟨rfl, rfl⟩) <;> rfl

/-- Decoding fails exactly on a length other than the required one (R180, R194). -/
theorem decodeAnswer_eq_none_iff (cmd : Byte) (p : List Byte) :
    decodeAnswer cmd p = none ↔ ∃ n, (dispatch cmd).2 = some n ∧ p.length ≠ n := by
  cases h : (dispatch cmd).2 <;> simp [decodeAnswer, needMet, h]

/-- Settles O15: the codes that require a length are those of the five rows, and no code has the tag NONE. -/
theorem decodeErrorsExactly : Obligations.DecodeErrorsExactly := by
  intro cmd p
  refine ⟨?_, fun h => ?_⟩
  · simp only [decodeAnswer_eq_none_iff, dispatch_need_iff, or_and_right, and_assoc, exists_or, exists_and_left,
      exists_eq_left]
  · obtain ⟨htag, -⟩ := decodeAnswer_some h
    exact dispatch_ne_none cmd htag.symm

/-! The DEC operations (R182 to R194). -/

/-- An answer of a length that its row allows is published under the row's tag (R162, R220). -/
theorem answer_published {s : State} (hs : Inv s) {cmd : Byte} {tag : Tag} {need : Option Nat} {p : List Byte}
    (hd : dispatch cmd = (tag, need)) (hneed : needMet need p.length = true) (hp : p.length ≤ Config.maxPayload) :
    Published s (answer cmd p s) cmd tag p := by
  have hdecode : decodeAnswer cmd p = some tag := by simp [decodeAnswer, hd, hneed]
  simpa only [answer, hdecode] using publish_published hs cmd tag hp

/-- A fixed-length answer of its length is published (R182 to R185, R189). -/
theorem answer_fixed_published {s : State} (hs : Inv s) {cmd : Byte} {tag : Tag} {n : Nat} {p : List Byte}
    (hd : dispatch cmd = (tag, some n)) (hn : n ≤ Config.maxPayload) (hp : p.length = n) :
    Published s (answer cmd p s) cmd tag p :=
  answer_published hs hd (beq_iff_eq.mpr hp) (hp ▸ hn)

/-- A fixed-length answer of another length raises DECERR with its code (R194). -/
theorem answer_wrong_length {cmd : Byte} {tag : Tag} {n : Nat} {p : List Byte} (hd : dispatch cmd = (tag, some n))
    (hp : p.length ≠ n) (s : State) :
    answer cmd p s = { s with evt := s.evt ||| 0x004#9, log := { s.log with lastDecerr := cmd } } := by
  have hdecode : decodeAnswer cmd p = none := (decodeAnswer_eq_none_iff cmd p).mpr ⟨n, by rw [hd], hp⟩
  rw [answer, hdecode]
  rfl

/-- Settles O16, row by row of the dispatch table. -/
theorem fixedLengthAnswersPublish : Obligations.FixedLengthAnswersPublish := fun _ _ _ hs =>
  ⟨fun h => ⟨_, rfl, answer_fixed_published hs rfl (by decide) h⟩,
    fun h => ⟨_, rfl, answer_fixed_published hs rfl (by decide) h⟩,
    fun h => ⟨_, rfl, answer_fixed_published hs rfl (by decide) h⟩,
    fun h => ⟨_, rfl, answer_fixed_published hs rfl (by decide) h⟩,
    fun h => ⟨_, rfl, answer_fixed_published hs rfl (by decide) h⟩⟩

/-- Settles O17, row by row of the dispatch table. -/
theorem wrongLengthRaisesDecerr : Obligations.WrongLengthRaisesDecerr := fun _ _ s =>
  ⟨fun h => congrArg Host.Outcome.next (answer_wrong_length rfl h s),
    fun h => congrArg Host.Outcome.next (answer_wrong_length rfl h s),
    fun h => congrArg Host.Outcome.next (answer_wrong_length rfl h s),
    fun h => congrArg Host.Outcome.next (answer_wrong_length rfl h s),
    fun h => congrArg Host.Outcome.next (answer_wrong_length rfl h s)⟩

/-- Settles O18, row by row of the dispatch table. -/
theorem anyLengthAnswersPublish : Obligations.AnyLengthAnswersPublish := fun _ _ _ hs hp =>
  ⟨⟨_, rfl, answer_published hs rfl rfl hp⟩, ⟨_, rfl, answer_published hs rfl rfl hp⟩,
    ⟨_, rfl, answer_published hs rfl rfl hp⟩, ⟨_, rfl, answer_published hs rfl rfl hp⟩,
    ⟨_, rfl, answer_published hs rfl rfl hp⟩, ⟨_, rfl, answer_published hs rfl rfl hp⟩⟩

/-- Settles O19: a code outside the eleven rows has none in the dispatch table. -/
theorem unlistedCodesPublishRaw : Obligations.UnlistedCodesPublishRaw := by
  intro pre cmd p s hs hp hcmd
  rcases dispatch_cases cmd with listed | hraw
  · exact absurd (List.mem_map_of_mem (f := Prod.fst) listed) hcmd
  · exact ⟨_, rfl, answer_published hs hraw rfl hp⟩

/-! The register views of a published slot (R225 to R228). -/

/-- PUBLISH, then SNAP_LATCH of the same code in bits 7:0 of the value: the snapshot is the slot just published
(R220, R224). -/
theorem publish_then_latch {s : State} (hs : Inv s) (cmd : Byte) (tag : Tag) (p : List Byte) {v : Word}
    (hv : v.extractLsb' 0 8 = cmd) :
    ∃ t u, exec (.publish cmd tag p) s = .next t ∧ exec (.snapLatch v) t = .next u ∧
      u.snap = publishedSlot (slotAt s.slots cmd) tag p :=
  ⟨_, _, rfl, rfl, by rw [snapLatch_snap, hv, slotAt_publish hs, if_pos rfl]⟩

/-- `SNAP_DATA[i]` is the register 0x200 + i (R34). -/
theorem regValue_snapData {i : Nat} (hi : i ≤ 253) (s : State) :
    regValue (BitVec.ofNat 12 (0x200 + i)) s = (dataByte s.snap i).setWidth 32 := by
  have hn : (BitVec.ofNat 12 (0x200 + i)).toNat = 0x200 + i := by rw [BitVec.toNat_ofNat]; omega
  rw [regValue_of_not_single (by simp only [hn, singleRegs, List.mem_cons, List.not_mem_nil, or_false]; omega),
    hn, if_neg (by omega), if_pos (by omega), Nat.add_sub_cancel_left]

/-- The bytes of a word of four bytes, as the fields of SNAP_ST lie in it (R228). -/
theorem extract_bytes (b3 b2 b1 b0 : Byte) :
    (b3 ++ b2 ++ b1 ++ b0 : Word).extractLsb' 0 8 = b0 ∧ (b3 ++ b2 ++ b1 ++ b0 : Word).extractLsb' 8 8 = b1 ∧
      (b3 ++ b2 ++ b1 ++ b0 : Word).extractLsb' 16 8 = b2 := by
  have drop_low {m : Nat} (hi : BitVec m) (lo : Byte) {start : Nat} (h : 8 ≤ start) :
      (hi ++ lo).extractLsb' start 8 = hi.extractLsb' (start - 8) 8 := BitVec.extractLsb'_append_eq_of_le h
  refine ⟨BitVec.extractLsb'_append_eq_right, ?_, ?_⟩
  · rw [drop_low _ b0 (by decide)]
    exact BitVec.extractLsb'_append_eq_right
  · rw [drop_low _ b0 (by decide), drop_low _ b1 (by decide)]
    exact BitVec.extractLsb'_append_eq_right

section
variable {old : Slot} (ho : Memory.wf old.data) {p : List Byte} (hp : p.length ≤ Config.maxPayload)
include ho hp

theorem readByte_publishedSlot_of_lt (tag : Tag) {i : Nat} (hi : i < p.length) :
    readByte (publishedSlot old tag p).data i = p.getD i 0#8 := by
  rw [readByte_publishedSlot ho tag hp, if_pos hi]

/-- Nothing of an older, longer answer shows behind the payload (R226). -/
theorem dataByte_publishedSlot (tag : Tag) (i : Nat) : dataByte (publishedSlot old tag p) i = p.getD i 0#8 := by
  rw [dataByte, plen_publishedSlot old tag hp]
  split
  · exact readByte_publishedSlot_of_lt ho hp tag ‹_›
  · rw [List.getD_eq_default _ _ (by omega)]

/-- `SNAP_Fk` of a published payload that has the word is its float at offset `4k` (R103 (f), R227). -/
theorem floatWord_publishedSlot (tag : Tag) {k : Nat} (hk : 4 * k + 4 ≤ p.length) :
    floatWord (publishedSlot old tag p) k = floatAt p (4 * k) := by
  have hread : ∀ i < p.length, readByte (publishedSlot old tag p).data i = p.getD i 0#8 :=
    fun _ => readByte_publishedSlot_of_lt ho hp tag
  rw [floatWord, plen_publishedSlot old tag hp, if_pos hk, floatAt, hread _ (by omega), hread _ (by omega),
    hread _ (by omega), hread _ (by omega)]

/-- `SNAP_ST` of a published state report: status byte, error code and category (R197, R228). -/
theorem statusView_publishedSlot_state (hlen : p.length = 14) :
    (statusView (publishedSlot old .state p)).extractLsb' 0 8 = p.getD 12 0#8 ∧
    (statusView (publishedSlot old .state p)).extractLsb' 8 8 = p.getD 13 0#8 ∧
    (statusView (publishedSlot old .state p)).extractLsb' 16 8 = Config.errtab (p.getD 13 0#8) := by
  rw [← readByte_publishedSlot_of_lt ho hp .state (show 12 < p.length by omega),
    ← readByte_publishedSlot_of_lt ho hp .state (show 13 < p.length by omega)]
  exact extract_bytes ..

/-- `SNAP_ST` of a published command error: code and category (R197, R228). -/
theorem statusView_publishedSlot_cmderr (hlen : p.length = 1) :
    (statusView (publishedSlot old .cmderr p)).extractLsb' 8 8 = p.getD 0 0#8 ∧
    (statusView (publishedSlot old .cmderr p)).extractLsb' 16 8 = Config.errtab (p.getD 0 0#8) := by
  rw [← readByte_publishedSlot_of_lt ho hp .cmderr (show 0 < p.length by omega)]
  exact (extract_bytes ..).2

end

/-- Settles O46: the snapshot is the published slot, and every view of it gives back the payload. -/
theorem publishThenLatchReadsBack : Obligations.PublishThenLatchReadsBack := by
  intro cmd tag p v s hs hp hv
  obtain ⟨t, u, ht, hu, hsnap⟩ := publish_then_latch hs cmd tag p hv
  refine ⟨t, u, ht, hu, congrArg Slot.seq hsnap, ?_, fun i hi => ?_⟩
  · refine (infoWord_toNat u.snap).trans ?_
    rw [hsnap, plen_publishedSlot _ _ hp]
    rfl
  · rw [regValue_snapData hi, hsnap, dataByte_publishedSlot (hs.slot_data_wf cmd) hp]

/-- The value that selects a code in SNAP_LATCH (R224). -/
theorem extract_setWidth_byte (c : Byte) : (c.setWidth 32 : Word).extractLsb' 0 8 = c := by
  rw [BitVec.extractLsb'_setWidth_of_le (by decide), BitVec.extractLsb'_eq_self]

/-- Settles O45: each view of the published slot is the field of R196 or R197. -/
theorem typedFieldsReadBack : Obligations.TypedFieldsReadBack := by
  intro p s hs
  have fits {n : Nat} (hlen : p.length = n) (hn : n ≤ 254) : p.length ≤ Config.maxPayload := hlen ▸ hn
  refine ⟨fun hlen => ?state, fun hlen r hr => ?float, fun hlen => ?cmderr⟩
  case state =>
    have ho := hs.slot_data_wf 0x95#8
    have hp := fits hlen (by decide)
    obtain ⟨t, u, ht, hu, hsnap⟩ := publish_then_latch hs 0x95#8 .state p (v := 0x00000095#32) rfl
    have hfloat (k : Nat) (hk : k ≤ 2) : some (floatAt p (4 * k)) = some (floatWord u.snap k) := by
      rw [hsnap, floatWord_publishedSlot ho hp .state (by omega)]
    obtain ⟨hstatus, hcode, hcat⟩ := hsnap ▸ statusView_publishedSlot_state ho hp hlen
    exact ⟨t, u, ht, hu, hfloat 0 (by decide), hfloat 1 (by decide), hfloat 2 (by decide),
      congrArg some hstatus.symm, congrArg some hcode.symm, congrArg some hcat.symm⟩
  case float =>
    obtain ⟨t, u, ht, hu, hsnap⟩ := publish_then_latch hs r.1 r.2 p (extract_setWidth_byte r.1)
    have hfloat : floatWord u.snap 0 = floatAt p 0 := by
      rw [hsnap, floatWord_publishedSlot (hs.slot_data_wf r.1) (fits hlen (by decide)) r.2 (by omega)]
    have hfield : (if r.2 = .moveacc then elapsedTime r.2 p else position r.2 p) = some (floatAt p 0) := by
      simp only [List.mem_cons, List.not_mem_nil, or_false] at hr
      rcases hr with rfl | rfl | rfl <;> rfl
    exact ⟨t, u, ht, hu, hfield.trans (congrArg some hfloat.symm)⟩
  case cmderr =>
    obtain ⟨t, u, ht, hu, hsnap⟩ := publish_then_latch hs 0x88#8 .cmderr p (v := 0x00000088#32) rfl
    obtain ⟨hcode, hcat⟩ := hsnap ▸
      statusView_publishedSlot_cmderr (hs.slot_data_wf 0x88#8) (fits hlen (by decide)) hlen
    exact ⟨t, u, ht, hu, congrArg some hcode.symm, congrArg some hcat.symm,
      congrArg (fun c => some (errstr c)) hcat.symm⟩

end Sys2Proof.Machine
end

section
/-! PROOFS. The demultiplexer of 43_demux.md: PUBLISH and SNAP_LATCH (R220, R221, R224), the read window (R226 to R228),
and the sequence number that the wait protocol polls (R229, R232, R234). -/

namespace Sys2Proof.Machine

/-! PUBLISH and SNAP_LATCH (R220, R221, R224). -/

/-- Settles O20: PUBLISH is the function `publish`, told by reads. -/
theorem publishStores : Obligations.PublishStores :=
  fun cmd tag p s hs hp => ⟨publish cmd tag p s, rfl, publish_published hs cmd tag hp⟩

/-- Bits 7:0 of a value, read back as a register (R34). -/
theorem setWidth_low_byte (v : Word) : (v.extractLsb' 0 8).setWidth 32 = v &&& 0x000000FF#32 := by
  rw [← Laws.RowMatch.low_byte_masked (v.extractLsb' 8 24) (v.extractLsb' 0 8)]
  exact congrArg (· &&& 0x000000FF#32) (cmdrValue_of_low_byte rfl)

/-- Settles O36: the next state is `snapLatch`, and SNAP_SEQ is a field of the copy. -/
theorem snapLatchCopies : Obligations.SnapLatchCopies :=
  fun v s => ⟨snapLatch (v.extractLsb' 0 8) s, rfl, rfl, setWidth_low_byte v, rfl⟩

/-! The read window (R226 to R228). -/

/-- `SNAP_Fk` is the register 0x013 + k (R34). -/
theorem regValue_snapFloat {k : Nat} (hk : k ≤ 2) (s : State) :
    regValue (BitVec.ofNat 12 (0x013 + k)) s = floatWord s.snap k := by
  interval_cases k <;> rfl

/-- Settles O43: the registers are `dataByte` and `floatWord` of the snapshot. -/
theorem snapshotViews : Obligations.SnapshotViews := by
  refine fun s => ⟨fun i hi => ?data, fun k hk => regValue_snapFloat hk s⟩
  case data =>
    rw [regValue_snapData hi, dataByte, apply_ite (BitVec.setWidth 32), BitVec.setWidth_zero]

/-- Bits 31:24 of a word of four bytes. -/
theorem extract_high_byte (b3 b2 b1 b0 : Byte) : (b3 ++ b2 ++ b1 ++ b0 : Word).extractLsb' 24 8 = b3 := by
  rw [BitVec.append_assoc, BitVec.append_assoc]
  exact BitVec.extractLsb'_append_eq_left

/-! `SNAP_ST` by the tag of the snapshot: one equation per case of R228. -/

theorem statusView_of_state {r : Slot} (h : r.tag = .state) :
    statusView r = 0#8 ++ Config.errtab (readByte r.data 13) ++ readByte r.data 13 ++ readByte r.data 12 := by
  simp only [statusView, h]

theorem statusView_of_cmderr {r : Slot} (h : r.tag = .cmderr) :
    statusView r = 0#8 ++ Config.errtab (readByte r.data 0) ++ readByte r.data 0 ++ 0#8 := by
  simp only [statusView, h]

theorem statusView_of_other {r : Slot} (hstate : r.tag ≠ .state) (hcmderr : r.tag ≠ .cmderr) :
    statusView r = 0#32 := by
  unfold statusView
  split
  · exact absurd ‹_› hstate
  · exact absurd ‹_› hcmderr
  all_goals rfl

theorem statusView_high_byte (r : Slot) : (statusView r).extractLsb' 24 8 = 0#8 := by
  by_cases hstate : r.tag = .state
  · rw [statusView_of_state hstate, extract_high_byte]
  · by_cases hcmderr : r.tag = .cmderr
    · rw [statusView_of_cmderr hcmderr, extract_high_byte]
    · rw [statusView_of_other hstate hcmderr, BitVec.extractLsb'_zero]

/-- Settles O44: the register is `statusView` of the snapshot, whose three fields are bytes of one word. -/
theorem statusViewByTag : Obligations.StatusViewByTag := by
  intro s
  have hreg : regValue 0x016#12 s = statusView s.snap := rfl
  rw [hreg]
  refine ⟨fun hstate => ?_, fun hcmderr => ?_, statusView_of_other, statusView_high_byte s.snap⟩
  · rw [statusView_of_state hstate]
    exact extract_bytes ..
  · rw [statusView_of_cmderr hcmderr]
    exact extract_bytes ..

/-! The sequence number of a slot (R229). The scan outcomes of the statement carry payloads of any length, so the
induction keeps only the part of the invariants that speaks of the slot table's form. -/

/-- An answer keeps the slot table in canonical form, whatever the length of its payload (R30). -/
theorem answer_slots_wf {s : State} (ht : sparseWf Slot.empty 256 s.slots) (cmd : Byte) (p : List Byte) :
    sparseWf Slot.empty 256 (answer cmd p s).slots := by
  rcases answer_cases cmd p s with ⟨-, h⟩ | ⟨tag, -, h⟩ <;> rw [h]
  · exact ht
  · rw [publish_slots]
    exact setSlot_wf ht cmd _

/-- A publish counts in its own slot, and a decode error in none (R194, R220, R229). -/
theorem seq_answer {s : State} (ht : sparseWf Slot.empty 256 s.slots) (cmd : Byte) (p : List Byte) (c : Byte) :
    (slotAt (answer cmd p s).slots c).seq = (slotAt s.slots c).seq +
      BitVec.ofNat 32 (if cmd = c ∧ (decodeAnswer cmd p).isSome then 1 else 0) := by
  rcases answer_cases cmd p s with ⟨hd, h⟩ | ⟨tag, hd, h⟩ <;> rw [h]
  · simp [hd]
  · rw [publish_slots, slotAt_setSlot ht]
    by_cases hc : cmd = c
    · subst hc
      simp [hd, publishedSlot]
    · simp [hc, Ne.symm hc]

/-- The sequence number grows by the number of publishes to the slot, modulo 2^32 (R229). -/
theorem seq_applyOutcomes (outs : List ScanOutcome) (c : Byte) {s : State} (ht : sparseWf Slot.empty 256 s.slots) :
    (slotAt (applyOutcomes outs s).slots c).seq =
      (slotAt s.slots c).seq + BitVec.ofNat 32 (publishCount c outs) := by
  induction outs generalizing s with
  | nil => exact (BitVec.add_zero _).symm
  | cons o outs ih =>
    cases o with
    | dropped b => exact ih (s := raise .cksum s) ht
    | frame cmd p =>
      rw [applyOutcomes, ih (answer_slots_wf ht cmd p), seq_answer ht, publishCount, BitVec.ofNat_add,
        BitVec.add_assoc]

/-! One poll of the wait (R232). -/

/-- The poll answers exactly when the sequence number moved: `STATUS` and the timer come after it. -/
theorem waitPoll_eq_answer_iff (captured seq status : Word) (late : Bool) :
    waitPoll captured seq status late = .answer ↔ seq ≠ captured := by
  unfold waitPoll
  split
  · exact iff_of_true rfl ‹_›
  · refine iff_of_false ?_ ‹_›
    split_ifs <;> simp

/-- A sequence number that grew by 1 to 2^32 - 1 moved: only 2^32 publishes bring it back (R229, R234 (c)). -/
theorem add_ofNat_ne_self (x : Word) {n : Nat} (hpos : 0 < n) (hlt : n < 2 ^ 32) : x + BitVec.ofNat 32 n ≠ x := by
  have hne : BitVec.ofNat 32 n ≠ 0#32 := fun h => by
    have : n % 2 ^ 32 = 0 := congrArg BitVec.toNat h
    omega
  simpa using hne

/-- Settles O47: the poll sees whether the count of publishes moved the sequence number. -/
theorem waitSeesEveryPublish : Obligations.WaitSeesEveryPublish := by
  intro outs c s status late hs
  have hseq := seq_applyOutcomes outs c hs.slots
  refine ⟨hseq, fun hpos hlt => ?some, fun hzero => ?none⟩
  case some =>
    rw [waitPoll_eq_answer_iff, hseq]
    exact add_ofNat_ne_self _ hpos hlt
  case none =>
    rw [Ne, waitPoll_eq_answer_iff, hseq, hzero, not_not]
    exact BitVec.add_zero _

end Sys2Proof.Machine
end

section
/-! PROOFS. The system operations and the register access of 44_system.md: which register a write reaches (R240, R241),
the fields of STATUS (R242), closing (R243, R244), and the enables and flags (R246, R247). -/

namespace Sys2Proof.Machine

/-! Register writes (R240, R241). -/

/-- The register numbers outside `TXP` that a write reaches (R34). -/
def writableRegs : List Nat := [0x000, 0x001, 0x003, 0x004, 0x008, 0x009, 0x010]

/-- At every other number a write stages a byte of `TXP`, or is ignored (R240). -/
theorem regWrite_of_not_writable {n : RegNum} (hn : n.toNat ∉ writableRegs) (v : Word) (s : State) :
    regWrite n v s =
      if 0x100 ≤ n.toNat ∧ n.toNat ≤ 0x1FD then
        { s with txp := writeByte s.txp (n.toNat - 0x100) (v.extractLsb' 0 8) }
      else s := by
  have hne : ∀ m : RegNum, m.toNat ∈ writableRegs → n ≠ m := fun m hm h => hn (h ▸ hm)
  simp (disch := decide) only [regWrite, hne, if_false]

/-- A write of `TXP[i]` stages bits 7:0 of the value at entry `i` (R240). -/
theorem regWrite_txp {i : Nat} (hi : i ≤ 253) (v : Word) (s : State) :
    regWrite (BitVec.ofNat 12 (0x100 + i)) v s = { s with txp := writeByte s.txp i (v.extractLsb' 0 8) } := by
  have hn : (BitVec.ofNat 12 (0x100 + i)).toNat = 0x100 + i := by rw [BitVec.toNat_ofNat]; omega
  have hout : 0x100 + i ∉ writableRegs := by
    simp only [writableRegs, List.mem_cons, List.not_mem_nil, or_false]
    omega
  rw [regWrite_of_not_writable (hn.symm ▸ hout), hn, if_pos (by omega), Nat.add_sub_cancel_left]

/-- `TXP[j]` after a write at entry `a` (R34). -/
theorem regValue_txp_writeByte {s : State} (hs : Memory.wf s.txp) (a : Nat) (b : Byte) {j : Nat} (hj : j ≤ 253) :
    regValue (BitVec.ofNat 12 (0x100 + j)) { s with txp := writeByte s.txp a b } =
      if j = a then b.setWidth 32 else regValue (BitVec.ofNat 12 (0x100 + j)) s := by
  rw [regValue_txp hj, regValue_txp hj, readByte_writeByte hs, apply_ite (BitVec.setWidth 32)]

/-- Settles O37: the two single registers by computation, `TXP` by the read after a write. -/
theorem regWriteStages : Obligations.RegWriteStages := by
  refine fun v s hs => ⟨rfl, rfl, fun i hi => ?_⟩
  refine ⟨{ s with txp := writeByte s.txp i (v.extractLsb' 0 8) }, congrArg Host.Outcome.next (regWrite_txp hi v s),
    rfl, writeByte_wf hs (by unfold Config.maxPayload; omega) _, fun j hj => ?_⟩
  rw [regValue_txp_writeByte hs i _ hj, setWidth_low_byte]

/-- A value whose low byte names no operation is ignored by `CMDR` (R241). -/
theorem cmdrWrite_reserved {v : Word} (hv : (v.extractLsb' 0 8).toNat ∉ [1, 2, 3, 4]) (s : State) :
    cmdrWrite v s = s := by
  have hne : ∀ op : Byte, op.toNat ∈ [1, 2, 3, 4] → v.extractLsb' 0 8 ≠ op := fun op hop h => hv (h ▸ hop)
  simp (disch := decide) only [cmdrWrite, hne, if_false]

/-- Settles O39, number by number and value by value. -/
theorem regWriteIgnoredElsewhere : Obligations.RegWriteIgnoredElsewhere := by
  intro n v s h
  refine congrArg Host.Outcome.next ?_
  rcases h with ⟨hsingle, htxp⟩ | ⟨hcmdr, hv⟩
  · rw [regWrite_of_not_writable hsingle, if_neg htxp]
  · obtain rfl : n = 0x001#12 := BitVec.eq_of_toNat_eq hcmdr
    exact cmdrWrite_reserved hv s

/-! STATUS (R242). -/

/-- `STATUS` is the register 0x002 (R34). -/
theorem regValue_status (s : State) : regValue 0x002#12 s = statusWord s := rfl

/-- `STATUS.TX_BUSY` tells whether `TXQ` holds a byte (R34). -/
theorem statusWord_txBusy (s : State) : (statusWord s).getLsbD 0 = (s.txq != []) := by
  simp only [statusWord, BitVec.getLsbD_append]
  simp [bit]

/-- `STATUS.CLOSED` (R34). -/
theorem statusWord_closed (s : State) : (statusWord s).getLsbD 1 = s.closed := by
  simp only [statusWord, BitVec.getLsbD_append]
  simp [bit]

/-- `STATUS.TXQ_LEN` is the number of bytes in `TXQ` (R34). -/
theorem statusWord_txqLen (s : State) : (statusWord s).extractLsb' 20 9 = BitVec.ofNat 9 s.txq.length := by
  refine BitVec.eq_of_getLsbD_eq fun i hi => ?_
  have hoffset : 20 + i - 1 - 1 - 1 - 5 - 9 - 3 = i := by omega
  simp (disch := omega) only [statusWord, BitVec.getLsbD_extractLsb', BitVec.getLsbD_append, if_neg,
    hoffset]
  simp [hi]

/-- The bits of `STATUS` outside its fields are 0 (R34). -/
theorem statusWord_reserved {k : Nat} (hk : 3 ≤ k ∧ k ≤ 7 ∨ 17 ≤ k ∧ k ≤ 19 ∨ 29 ≤ k) (s : State) :
    (statusWord s).getLsbD k = false := by
  simp only [statusWord, BitVec.getLsbD_append]
  rcases hk with hk | hk | hk <;> simp (disch := omega) only [if_neg, if_pos, BitVec.getLsbD_zero]

/-- Settles O41, field by field: a queue within its depth has a length that fits 9 bits. -/
theorem statusRegisterFields : Obligations.StatusRegisterFields := by
  intro s hrx htx
  have hlen : ∀ n ≤ 260, (BitVec.ofNat 9 n).toNat = n := fun n hn => by
    rw [BitVec.toNat_ofNat]
    omega
  rw [regValue_status, statusWord_txBusy, statusWord_rxIdle, statusWord_rxLen, statusWord_txqLen]
  exact ⟨bne_iff_ne, statusWord_closed s, beq_iff_eq, hlen _ hrx, hlen _ htx,
    fun k hk => statusWord_reserved hk s⟩

/-! Closing (R243, R244). -/

/-- Closing sets `CLOSED` and `EVT.CLOSED` and changes nothing else (R243, R244). -/
theorem markClosed_eq (s : State) : markClosed s = { s with closed := true, evt := s.evt ||| 0x020#9 } := rfl

/-- After CLOSE the block is closed, whether it was open or not (R243). -/
theorem closeOp_closed (s : State) : (closeOp s).closed = true := by
  unfold closeOp
  split
  · assumption
  · rfl

/-- Settles O30: the state after CLOSE is closed, which makes `rx_ready` 0 and ENCODE refuse. -/
theorem closeMarksClosed : Obligations.CloseMarksClosed := by
  intro ign s
  have hclosed := closeOp_closed s
  refine ⟨closeOp s, rfl, by rw [closeOp, markClosed_eq], hclosed, ?_, fun g => ?_⟩
  · exact Bool.eq_false_iff.mpr ((not_rxReady_iff _).mpr (.inr (.inl hclosed)))
  · rw [encodeOutcomes g (closeOp s), if_pos hclosed]

/-- Settles O31: RX_CLOSE is enabled by `rx_ready`, and then marks the block closed. -/
theorem lineCloseMarksClosed : Obligations.LineCloseMarksClosed :=
  fun s => ⟨rxReady_iff s, fun ready => ⟨length_of_rxReady ready, if_pos ready⟩⟩

/-! The enables and the flags (R246, R247). -/

/-- The low `w` bits of a value, read back as a register (R34). -/
theorem setWidth_low_bits {w : Nat} (hw : w ≤ 32) (v : Word) :
    (v.extractLsb' 0 w).setWidth 32 = v &&& BitVec.ofNat 32 (2 ^ w - 1) := by
  refine BitVec.eq_of_toNat_eq ?_
  have hmask : 2 ^ w - 1 < 2 ^ 32 := (Nat.sub_one_lt (by positivity)).trans_le (Nat.pow_le_pow_right (by decide) hw)
  rw [toNat_setWidth_word hw, BitVec.extractLsb'_toNat, Nat.shiftRight_zero, BitVec.toNat_and, BitVec.toNat_ofNat,
    Nat.mod_eq_of_lt hmask, Nat.and_two_pow_sub_one_eq_mod]

/-- One bit of a value as a field of width 1. -/
theorem bit_getLsbD_zero (v : Word) : bit (v.getLsbD 0) = v.extractLsb' 0 1 := by
  refine BitVec.eq_of_getLsbD_eq fun i hi => ?_
  obtain rfl : i = 0 := by omega
  simp [bit]

/-- Settles O34: each register reads back the low bits written. -/
theorem enablesAreWritten : Obligations.EnablesAreWritten := by
  refine fun v s => ⟨⟨ctrlWrite v s, rfl, rfl, ?ctrl⟩, ⟨ienWrite v s, rfl, rfl, fun k hk => ?bits, ?ien⟩⟩
  case ctrl =>
    exact (congrArg (BitVec.setWidth 32) (bit_getLsbD_zero v)).trans (setWidth_low_bits (by decide) v)
  case bits => simp [ienWrite, hk]
  case ien => exact setWidth_low_bits (w := 9) (by decide) v

/-- A flag after EVT_CLEAR with a written value (R246). -/
theorem evtClear_getLsbD (v : Word) (s : State) {k : Nat} (hk : k < 9) :
    (evtClear (v.extractLsb' 0 9) s).evt.getLsbD k = (s.evt.getLsbD k && !v.getLsbD k) := by
  rw [evtClear_evt]
  simp [hk]

/-- Settles O35: the next state is `evtClear` of bits 8:0 of the value. -/
theorem evtClearClearsOnes : Obligations.EvtClearClearsOnes :=
  fun v s => ⟨evtClear (v.extractLsb' 0 9) s, rfl, rfl, fun _ => evtClear_getLsbD v s⟩

/-! REG_READ (R240). -/

/-- The host's history is behind no register (R34). -/
theorem regValue_hostRd (m : RegNum) (s : State) (h : List Word) : regValue m { s with hostRd := h } = regValue m s := rfl

/-- Settles O40: the history takes the value, and no register shows the history. -/
theorem regReadReturnsRegister : Obligations.RegReadReturnsRegister :=
  fun n s => ⟨{ s with hostRd := s.hostRd ++ [regValue n s] }, rfl, rfl, rfl, fun m => regValue_hostRd m s _⟩

end Sys2Proof.Machine
end

section
/-! PROOFS. The events of 60_exceptions.md: the interrupt output (R270), the flags that one step raises together
(R272), and that every step goes on (R260). -/

namespace Sys2Proof.Machine

/-! The interrupt output (R270). -/

/-- A vector is not zero exactly when one of its bits is 1. -/
theorem ne_zero_iff_exists_getLsbD {w : Nat} (x : BitVec w) : x ≠ 0#w ↔ ∃ k < w, x.getLsbD k = true := by
  simp [Ne, BitVec.eq_of_getLsbD_eq_iff]

/-- Settles O48: the bits of `EVT AND IEN` are the flags that are set and enabled. -/
theorem irqLevel : Obligations.IrqLevel := fun s =>
  calc irq s = true
    _ ↔ s.evt &&& s.ien ≠ 0#9 := bne_iff_ne
    _ ↔ ∃ k < 9, (s.evt &&& s.ien).getLsbD k = true := ne_zero_iff_exists_getLsbD _
    _ ↔ ∃ k < 9, s.evt.getLsbD k = true ∧ s.ien.getLsbD k = true := by simp only [BitVec.getLsbD_and, Bool.and_eq_true]

/-! The flags that one step raises together (R272). -/

/-- The sets of R272: `PUB`, `CKSUM`, `DECERR`, `PUB` with `UNSUP`, `PUB` with `DEVERR`, `CLOSED`, and the three
refusals of ENCODE. -/
def raisedTogether : List (BitVec 9) :=
  [0x001#9, 0x002#9, 0x004#9, 0x009#9, 0x011#9, 0x020#9, 0x040#9, 0x080#9, 0x100#9]

/-- From the flags `old` a step comes to `new`: some are cleared, or one of the sets of R272 is raised. -/
def FlagsStep (old new : BitVec 9) : Prop := (∃ m, new = old &&& m) ∨ ∃ r ∈ raisedTogether, new = old ||| r

theorem FlagsStep.refl (old : BitVec 9) : FlagsStep old old := .inl ⟨_, BitVec.and_allOnes.symm⟩

/-- UNSUP and DEVERR are the two causes that are raised only together with another (R221, R272). -/
theorem eventFlag_mem_raisedTogether {e : Event} (hunsup : ∀ cmd, e ≠ .unsup cmd) (hdeverr : e ≠ .deverr) :
    eventFlag e ∈ raisedTogether := by
  cases e with
  | unsup cmd => exact absurd rfl (hunsup cmd)
  | deverr => exact absurd rfl hdeverr
  | pub | cksum | decerr | closed | encLen | encBusy | encClosed => simp [eventFlag, eventCode, raisedTogether]

theorem publishFlags_mem_raisedTogether (tag : Tag) : publishFlags tag ∈ raisedTogether := by
  unfold publishFlags
  split_ifs <;> simp [raisedTogether]

/-- Raising one event, of a cause other than those two. -/
theorem flagsStep_raise {e : Event} (hunsup : ∀ cmd, e ≠ .unsup cmd) (hdeverr : e ≠ .deverr) (s : State) :
    FlagsStep s.evt (raise e s).evt :=
  .inr ⟨_, eventFlag_mem_raisedTogether hunsup hdeverr, raise_evt e s⟩

/-- An answer raises DECERR, or the flags of its publish (R194, R221). -/
theorem flagsStep_answer (cmd : Byte) (p : List Byte) (s : State) : FlagsStep s.evt (answer cmd p s).evt := by
  rcases answer_cases cmd p s with ⟨-, h⟩ | ⟨tag, -, h⟩ <;> rw [h]
  · exact flagsStep_raise (by simp) (by simp) s
  · exact .inr ⟨_, publishFlags_mem_raisedTogether tag, publish_evt ..⟩

/-- Every update of a step clears flags or raises one of the sets of R272. -/
theorem StepEffect.flagsStep {i : Instr} {s t : State} (h : StepEffect i s t) : FlagsStep s.evt t.evt := by
  cases h with
  | drop1 => exact flagsStep_raise (by simp) (by simp) { s with rxbuf := s.rxbuf.drop 1 }
  | frame cmd p n => exact flagsStep_answer cmd p { s with rxbuf := s.rxbuf.drop n }
  | markClosed => exact flagsStep_raise (by simp) (by simp) { s with closed := true }
  | refuse e refusal =>
    rcases refusal with rfl | rfl | rfl <;> exact flagsStep_raise (by simp) (by simp) s
  | reset => exact .inl ⟨0#9, BitVec.and_zero.symm⟩
  | evtClear m => exact .inl ⟨~~~m, evtClear_evt m s⟩
  | _ => exact .refl _

/-- Settles O49, from what each update of a step does with EVT. -/
theorem eventsOfOneStep : Obligations.EventsOfOneStep := by
  intro s t h
  rcases step_effect h with rfl | ⟨i, rest, -, heffect⟩
  · exact FlagsStep.refl t.evt
  · exact heffect.flagsStep

/-! Every step goes on (R240, R260). -/

/-- Settles O51: the next operation is that of a stimulus, and each of those answers a state. -/
theorem stepNeverStops : Obligations.StepNeverStops := by
  intro s
  rcases step_eq s with ⟨i, s', hnext, hstep⟩ | ⟨-, hstep⟩
  · obtain ⟨⟨x, rfl⟩, -⟩ := nextInstr_decodes hnext
    obtain ⟨t, hexec, -⟩ := exec_decodeStimulus_effect x s'
    exact ⟨t, hstep.trans hexec⟩
  · exact ⟨s, hstep⟩

end Sys2Proof.Machine
end

section
/-! PROOFS. The reset and the hazards of 70_reset_and_hazards.md: what lies outside the block at a reset (R290, R293),
and a frame behind a stray byte (R300, R301). -/

namespace Sys2Proof.Machine

/-! Reset (R290, R291). -/

/-- The reset input has the effect `resetBlock` (R290). -/
theorem exec_hardReset (s : State) : exec .hardReset s = .next (resetBlock s) := rfl

/-- SOFT_RESET has the same effect, whatever the ignored bits of its value are (R291). -/
theorem exec_softReset (ign : BitVec 24) (s : State) : exec (.softReset ign) s = .next (resetBlock s) := rfl

/-- Settles O33: the state after either reset is `resetBlock s`, which keeps the three fields. -/
theorem resetKeepsHistories : Obligations.ResetKeepsHistories := by
  intro ign s t h
  obtain rfl : resetBlock s = t := by
    rcases h with hard | soft
    · exact Host.Outcome.next.inj ((exec_hardReset s).symm.trans hard)
    · exact Host.Outcome.next.inj ((exec_softReset ign s).symm.trans soft)
  exact ⟨resetBlock_txwire s, resetBlock_hostRd s, resetBlock_inputs s⟩

/-! Loss of alignment (R300, R301). -/

/-- One stray byte before a frame: the length byte read is `PRE1` = 0x0C, so 17 bytes are awaited, whatever the frame
is (R300). -/
theorem total_stray_frame (stray cmd : Byte) (p rest : List Byte) : total (stray :: frame cmd p ++ rest) = 17 := rfl

/-- Behind one stray byte the scanner waits exactly until the buffer holds 17 bytes (R300). -/
theorem scan1_stray_frame_waits (stray cmd : Byte) (p rest : List Byte) :
    scan1 (stray :: frame cmd p ++ rest) = .needMore ↔ (stray :: frame cmd p ++ rest).length < 17 := by
  have hwaits : scan1 (stray :: frame cmd p ++ rest) = .needMore ↔
      (stray :: frame cmd p ++ rest).length < 6 ∨
        (stray :: frame cmd p ++ rest).length < total (stray :: frame cmd p ++ rest) := scanWaitsExactly _
  rw [total_stray_frame] at hwaits
  exact hwaits.trans (by omega)

/-- Settles O60: the two newlines count for 2 of the 17 bytes awaited. -/
theorem newlineStall : Obligations.NewlineStall := by
  intro cmd p _
  have hlength : (0x0A#8 :: frame cmd p ++ [0x0A#8]).length = (frame cmd p).length + 2 := by simp
  rw [scan1_stray_frame_waits, hlength]
  omega

end Sys2Proof.Machine
end
